-- ==== Sys2Proof/Word.lean ====
section
/-! DEFINITION. The widths of the machine (spec 00_scope.md R7, R11, R12): bytes, 16-bit words, 12-bit
addresses as they stand in an instruction, 4-bit counts, and register numbers. All values are unsigned. -/

namespace Sys2Proof

/-- An 8-bit value: a general register, a timer, a byte of memory (R7). -/
abbrev Byte := BitVec 8

/-- A 16-bit value: an instruction word, PC, I, a call-stack slot (R7). -/
abbrev Word := BitVec 16

/-- The 12-bit immediate `nnn` (R16, R72). -/
abbrev Addr12 := BitVec 12

/-- A 4-bit count: the rows of Dxyn, the registers of Fx55 and Fx65 (R72, R73). -/
abbrev Nibble := BitVec 4

/-- The number of a general register, V0 to VF (R20, R73). -/
abbrev Reg := Fin 16

/-- VF, the register that is also the flag output (R21). -/
abbrev VF : Reg := 15

end Sys2Proof
end

