-- ==== Sys2Proof/Config.lean ====
section
/-! DEFINITION. What is fixed for a machine's lifetime (00_scope.md R8, R9) and the free values the spec
leaves open (00_scope.md R10, 10_state.md R36). -/

namespace Sys2Proof

/-- The open parameter FX1E_VF_NOT_OVER (R9, R161): what Fx1E does to VF when the new index does not exceed 1000. -/
inductive Fx1eVfNotOver where
  | unchanged
  | zero
  deriving DecidableEq, Repr

/-- The open parameter LEGACY_BLOCK_ADDR (R9, R168): the addresses of a legacy block transfer. -/
inductive LegacyBlockAddr where
  | base
  | running
  deriving DecidableEq, Repr

/-- One glyph of the font: 5 rows, top row first (R33). -/
abbrev Glyph := Vector Byte 5

/-- FONT_ROM: 16 glyphs of 5 bytes, in digit order (R33). -/
abbrev FontRom := Vector Glyph 16

/-- The configuration of one machine: LEGACY_MODE (R8, R31) and the three open parameters of R9. -/
structure Config where
  legacyMode      : Bool
  fontRom         : FontRom
  fx1eVfNotOver   : Fx1eVfNotOver
  legacyBlockAddr : LegacyBlockAddr
  deriving DecidableEq, Repr

/-- FREE VALUE: the key snapshot of the `n`-th sampled cycle where the environment's list gives none (R36, U9; log 1). -/
opaque Config.freeKeys : Nat → BitVec 16

/-- FREE VALUE: the random byte of the `n`-th sampled cycle where the environment's list gives none (R10, R36, U8; log 1). -/
opaque Config.freeRand : Nat → Byte

end Sys2Proof
end

