-- ==== Sys2Proof/Syntax.lean ====
section
/-! DEFINITION. The instructions: one constructor per row of the opcode table (30_encoding.md R78), and the lines
of an assembler source (R80, R81). Every operand of `Instr` has the width the encoding gives it (R71 to R73),
so a term of `Instr` is well-formed by its type; a source line writes plain numbers, which
WellFormed.lean checks. -/

namespace Sys2Proof

/-- One constructor per row of the opcode table, in its order (R78). -/
inductive Instr where
  /-- 0000 (R105) -/
  | nop
  /-- 00E0 (R183) -/
  | cls
  /-- 00EE (R120) -/
  | ret
  /-- 1nnn (R121) -/
  | jp (nnn : Addr12)
  /-- 2nnn (R122) -/
  | call (nnn : Addr12)
  /-- 3xnn (R123) -/
  | seImm (x : Reg) (nn : Byte)
  /-- 4xnn (R124) -/
  | sneImm (x : Reg) (nn : Byte)
  /-- 5xy0 (R125) -/
  | seReg (x y : Reg)
  /-- 6xnn (R140) -/
  | ldImm (x : Reg) (nn : Byte)
  /-- 7xnn (R141) -/
  | addImm (x : Reg) (nn : Byte)
  /-- 8xy0 (R142) -/
  | ldReg (x y : Reg)
  /-- 8xy1 (R143) -/
  | orReg (x y : Reg)
  /-- 8xy2 (R144) -/
  | andReg (x y : Reg)
  /-- 8xy3 (R145) -/
  | xorReg (x y : Reg)
  /-- 8xy4 (R146) -/
  | addReg (x y : Reg)
  /-- 8xy5 (R147) -/
  | subReg (x y : Reg)
  /-- 8xy6 (R148) -/
  | shr (x y : Reg)
  /-- 8xy7 (R149) -/
  | subn (x y : Reg)
  /-- 8xyE (R150) -/
  | shl (x y : Reg)
  /-- 9xy0 (R126) -/
  | sneReg (x y : Reg)
  /-- Annn (R160) -/
  | ldI (nnn : Addr12)
  /-- Bnnn (R127) -/
  | jpV0 (nnn : Addr12)
  /-- Cxnn (R151) -/
  | rnd (x : Reg) (nn : Byte)
  /-- Dxyn (R184) -/
  | drw (x y : Reg) (n : Nibble)
  /-- Ex9E (R205) -/
  | skp (x : Reg)
  /-- ExA1 (R206) -/
  | sknp (x : Reg)
  /-- Fx07 (R201) -/
  | ldVxDt (x : Reg)
  /-- Fx0A (R208) -/
  | ldVxK (x : Reg)
  /-- Fx15 (R202) -/
  | ldDtVx (x : Reg)
  /-- Fx18 (R203) -/
  | ldStVx (x : Reg)
  /-- Fx1E (R161) -/
  | addI (x : Reg)
  /-- Fx29 (R162) -/
  | ldF (x : Reg)
  /-- Fx33 (R163) -/
  | ldB (x : Reg)
  /-- Fx55: x is a count of registers, not a register name (R73, R164) -/
  | ldMemVx (x : Nibble)
  /-- Fx65: x is a count of registers, not a register name (R73, R165) -/
  | ldVxMem (x : Nibble)
  deriving DecidableEq, Repr

/-- A line of an assembler source (R80): the mnemonics of R78 grouped by the operands they take, each operand a
plain number as it is written, and the directives DW and DB. -/
inductive AsmLine where
  | nop | cls | ret
  | jp (nnn : Nat) | call (nnn : Nat) | ldI (nnn : Nat) | jpV0 (nnn : Nat)
  | seImm (x nn : Nat) | sneImm (x nn : Nat) | ldImm (x nn : Nat) | addImm (x nn : Nat) | rnd (x nn : Nat)
  | seReg (x y : Nat) | sneReg (x y : Nat) | ldReg (x y : Nat) | orReg (x y : Nat) | andReg (x y : Nat)
  | xorReg (x y : Nat) | addReg (x y : Nat) | subReg (x y : Nat) | shr (x y : Nat) | subn (x y : Nat)
  | shl (x y : Nat)
  | drw (x y n : Nat)
  | skp (x : Nat) | sknp (x : Nat) | ldVxDt (x : Nat) | ldVxK (x : Nat) | ldDtVx (x : Nat) | ldStVx (x : Nat)
  | addI (x : Nat) | ldF (x : Nat) | ldB (x : Nat) | ldMemVx (x : Nat) | ldVxMem (x : Nat)
  /-- `DW v`: the 16-bit word v, high byte first -/
  | dw (v : Nat)
  /-- `DB v`: one byte -/
  | db (v : Nat)
  deriving DecidableEq, Repr

end Sys2Proof
end

