-- ==== Sys2Proof/WellFormed.lean ====
section
/-! DEFINITION. Well-formedness of what an assembler is given (30_encoding.md R80): registers are V0 to VF, nnn is
0 to 0xFFF, nn is 0 to 0xFF, n is 0 to 0xF, DW takes 16 bits and DB takes 8. "An assembler refuses any other value."
A term of `Instr` needs no check: each operand's type has exactly the values its field of the word has. -/

namespace Sys2Proof

/-- The operand is the number of a register (R73, R80). -/
def regOk (x : Nat) : Bool := decide (x ≤ 0xF)

/-- The operand fits `nnn` (R80). -/
def nnnOk (v : Nat) : Bool := decide (v ≤ 0xFFF)

/-- The operand fits `nn` (R80). -/
def nnOk (v : Nat) : Bool := decide (v ≤ 0xFF)

/-- The operand fits `n` (R80). -/
def nOk (v : Nat) : Bool := decide (v ≤ 0xF)

/-- Every operand of the line is in the range R80 gives it. -/
def AsmLine.wellFormed : AsmLine → Bool
  | .nop | .cls | .ret => true
  | .jp v | .call v | .ldI v | .jpV0 v => nnnOk v
  | .seImm x v | .sneImm x v | .ldImm x v | .addImm x v | .rnd x v => regOk x && nnOk v
  | .seReg x y | .sneReg x y | .ldReg x y | .orReg x y | .andReg x y | .xorReg x y | .addReg x y
  | .subReg x y | .shr x y | .subn x y | .shl x y => regOk x && regOk y
  | .drw x y n => regOk x && regOk y && nOk n
  | .skp x | .sknp x | .ldVxDt x | .ldVxK x | .ldDtVx x | .ldStVx x | .addI x | .ldF x | .ldB x
  | .ldMemVx x | .ldVxMem x => regOk x
  | .dw v => decide (v ≤ 0xFFFF)
  | .db v => decide (v ≤ 0xFF)

end Sys2Proof
end

