-- ==== Sys2Proof/Decode.lean ====
section
/-! DEFINITION. The decoder (30_encoding.md R74, R77, R78; 40_cycle_and_decode.md R103), total on any word and any
bytes and rejecting by name; the encoder; the opcode table; and assembling a source line (R80). -/

namespace Sys2Proof

/-! ### Fields (00_scope.md R16) -/

/-- `w[15:12]`, the high nibble. -/
def fieldOp (w : Word) : Nat := w.toNat / 4096

/-- `nnn = w[11:0]`. -/
def fieldNnn (w : Word) : Addr12 := w.extractLsb' 0 12

/-- `x = w[11:8]`. -/
def fieldX (w : Word) : Reg := (w.extractLsb' 8 4).toFin

/-- `x = w[11:8]` read as a count of registers (R73). -/
def fieldCount (w : Word) : Nibble := w.extractLsb' 8 4

/-- `y = w[7:4]`. -/
def fieldY (w : Word) : Reg := (w.extractLsb' 4 4).toFin

/-- `n = w[3:0]`. -/
def fieldN (w : Word) : Nibble := w.extractLsb' 0 4

/-- `nn = w[7:0]`. -/
def fieldNn (w : Word) : Byte := w.extractLsb' 0 8

/-! ### Decoding -/

/-- What a word decodes to (R75, R103): one of the table's rows, or an unknown word, rejected by name. -/
inductive Decoded where
  | instr (i : Instr)
  | unknown (w : Word)
  deriving DecidableEq, Repr

/-- Group 0x0: the three whole-word patterns (R74 (1), (2)). -/
def decodeGroup0 (w : Word) : Decoded :=
  if w = 0x0000#16 then .instr .nop
  else if w = 0x00E0#16 then .instr .cls
  else if w = 0x00EE#16 then .instr .ret
  else .unknown w

/-- Group 0x8, selected by `w[3:0]`. -/
def decodeGroup8 (w : Word) : Decoded :=
  match (fieldN w).toNat with
  | 0x0 => .instr (.ldReg (fieldX w) (fieldY w))
  | 0x1 => .instr (.orReg (fieldX w) (fieldY w))
  | 0x2 => .instr (.andReg (fieldX w) (fieldY w))
  | 0x3 => .instr (.xorReg (fieldX w) (fieldY w))
  | 0x4 => .instr (.addReg (fieldX w) (fieldY w))
  | 0x5 => .instr (.subReg (fieldX w) (fieldY w))
  | 0x6 => .instr (.shr (fieldX w) (fieldY w))
  | 0x7 => .instr (.subn (fieldX w) (fieldY w))
  | 0xE => .instr (.shl (fieldX w) (fieldY w))
  | _ => .unknown w

/-- Group 0xE, selected by `w[7:0]`. -/
def decodeGroupE (w : Word) : Decoded :=
  match (fieldNn w).toNat with
  | 0x9E => .instr (.skp (fieldX w))
  | 0xA1 => .instr (.sknp (fieldX w))
  | _ => .unknown w

/-- Group 0xF, selected by `w[7:0]`. -/
def decodeGroupF (w : Word) : Decoded :=
  match (fieldNn w).toNat with
  | 0x07 => .instr (.ldVxDt (fieldX w))
  | 0x0A => .instr (.ldVxK (fieldX w))
  | 0x15 => .instr (.ldDtVx (fieldX w))
  | 0x18 => .instr (.ldStVx (fieldX w))
  | 0x1E => .instr (.addI (fieldX w))
  | 0x29 => .instr (.ldF (fieldX w))
  | 0x33 => .instr (.ldB (fieldX w))
  | 0x55 => .instr (.ldMemVx (fieldCount w))
  | 0x65 => .instr (.ldVxMem (fieldCount w))
  | _ => .unknown w

/-- The instruction of a word (R74): the whole-word patterns, then the high nibble, then the group's sub-pattern.
5xyN and 9xyN with N ≠ 0 are unknown (90_conflicts.md C3). -/
def decode (w : Word) : Decoded :=
  match fieldOp w with
  | 0x0 => decodeGroup0 w
  | 0x1 => .instr (.jp (fieldNnn w))
  | 0x2 => .instr (.call (fieldNnn w))
  | 0x3 => .instr (.seImm (fieldX w) (fieldNn w))
  | 0x4 => .instr (.sneImm (fieldX w) (fieldNn w))
  | 0x5 => if fieldN w = 0#4 then .instr (.seReg (fieldX w) (fieldY w)) else .unknown w
  | 0x6 => .instr (.ldImm (fieldX w) (fieldNn w))
  | 0x7 => .instr (.addImm (fieldX w) (fieldNn w))
  | 0x8 => decodeGroup8 w
  | 0x9 => if fieldN w = 0#4 then .instr (.sneReg (fieldX w) (fieldY w)) else .unknown w
  | 0xA => .instr (.ldI (fieldNnn w))
  | 0xB => .instr (.jpV0 (fieldNnn w))
  | 0xC => .instr (.rnd (fieldX w) (fieldNn w))
  | 0xD => .instr (.drw (fieldX w) (fieldY w) (fieldN w))
  | 0xE => decodeGroupE w
  | 0xF => decodeGroupF w
  | _ => .unknown w

/-- The word of two bytes as they stand in memory: the first byte is the high one (20_memory.md R53; log 12). -/
def wordOfBytes (hi lo : Byte) : Word := BitVec.ofNat 16 (hi.toNat * 256 + lo.toNat)

/-- The high byte of a word. -/
def hiByte (w : Word) : Byte := w.extractLsb' 8 8

/-- The low byte of a word. -/
def loByte (w : Word) : Byte := w.extractLsb' 0 8

/-- What a list of bytes decodes to. -/
inductive DecodedBytes where
  /-- an instruction, and the bytes after its two (R70) -/
  | instr (i : Instr) (rest : List Byte)
  /-- an unknown word, and the bytes after its two (R77) -/
  | unknown (w : Word) (rest : List Byte)
  /-- fewer than two bytes: no instruction is that short (R70) -/
  | truncated
  deriving DecidableEq, Repr

/-- Decode from the front of a byte list. -/
def decodeBytes : List Byte → DecodedBytes
  | hi :: lo :: rest =>
    match decode (wordOfBytes hi lo) with
    | .instr i => .instr i rest
    | .unknown w => .unknown w rest
  | _ => .truncated

/-! ### Encoding -/

/-- A word of format NNN (R71). -/
def packNnn (op : Nat) (nnn : Addr12) : Word := BitVec.ofNat 16 (op * 4096 + nnn.toNat)

/-- A word of format XNN, and of format XK with its selector byte as `nn` (R71). -/
def packXnn (op : Nat) (x : Reg) (nn : Byte) : Word := BitVec.ofNat 16 (op * 4096 + x.val * 256 + nn.toNat)

/-- A word of format XYN, and of format XY with its `sub` as `n` (R71). -/
def packXyn (op : Nat) (x y : Reg) (n : Nibble) : Word :=
  BitVec.ofNat 16 (op * 4096 + x.val * 256 + y.val * 16 + n.toNat)

/-- The word of an instruction (R71, R78). -/
def encode : Instr → Word
  | .nop => 0x0000#16
  | .cls => 0x00E0#16
  | .ret => 0x00EE#16
  | .jp nnn => packNnn 0x1 nnn
  | .call nnn => packNnn 0x2 nnn
  | .seImm x nn => packXnn 0x3 x nn
  | .sneImm x nn => packXnn 0x4 x nn
  | .seReg x y => packXyn 0x5 x y 0x0#4
  | .ldImm x nn => packXnn 0x6 x nn
  | .addImm x nn => packXnn 0x7 x nn
  | .ldReg x y => packXyn 0x8 x y 0x0#4
  | .orReg x y => packXyn 0x8 x y 0x1#4
  | .andReg x y => packXyn 0x8 x y 0x2#4
  | .xorReg x y => packXyn 0x8 x y 0x3#4
  | .addReg x y => packXyn 0x8 x y 0x4#4
  | .subReg x y => packXyn 0x8 x y 0x5#4
  | .shr x y => packXyn 0x8 x y 0x6#4
  | .subn x y => packXyn 0x8 x y 0x7#4
  | .shl x y => packXyn 0x8 x y 0xE#4
  | .sneReg x y => packXyn 0x9 x y 0x0#4
  | .ldI nnn => packNnn 0xA nnn
  | .jpV0 nnn => packNnn 0xB nnn
  | .rnd x nn => packXnn 0xC x nn
  | .drw x y n => packXyn 0xD x y n
  | .skp x => packXnn 0xE x 0x9E#8
  | .sknp x => packXnn 0xE x 0xA1#8
  | .ldVxDt x => packXnn 0xF x 0x07#8
  | .ldVxK x => packXnn 0xF x 0x0A#8
  | .ldDtVx x => packXnn 0xF x 0x15#8
  | .ldStVx x => packXnn 0xF x 0x18#8
  | .addI x => packXnn 0xF x 0x1E#8
  | .ldF x => packXnn 0xF x 0x29#8
  | .ldB x => packXnn 0xF x 0x33#8
  | .ldMemVx x => packXnn 0xF x.toFin 0x55#8
  | .ldVxMem x => packXnn 0xF x.toFin 0x65#8

/-- A word as the two bytes memory holds it in (R53). -/
def bytesOfWord (w : Word) : List Byte := [hiByte w, loByte w]

/-! ### The opcode table (R78) -/

/-- A row of the opcode table: a word matches it when `(w & mask) == pattern`. -/
structure OpcodeRow where
  pattern : Word
  mask    : Word
  deriving DecidableEq, Repr

/-- The word matches the row (R78). -/
def OpcodeRow.covers (r : OpcodeRow) (w : Word) : Bool := (w &&& r.mask) == r.pattern

/-- The row of an instruction (R78). -/
def Instr.row : Instr → OpcodeRow
  | .nop => ⟨0x0000#16, 0xFFFF#16⟩
  | .cls => ⟨0x00E0#16, 0xFFFF#16⟩
  | .ret => ⟨0x00EE#16, 0xFFFF#16⟩
  | .jp _ => ⟨0x1000#16, 0xF000#16⟩
  | .call _ => ⟨0x2000#16, 0xF000#16⟩
  | .seImm _ _ => ⟨0x3000#16, 0xF000#16⟩
  | .sneImm _ _ => ⟨0x4000#16, 0xF000#16⟩
  | .seReg _ _ => ⟨0x5000#16, 0xF00F#16⟩
  | .ldImm _ _ => ⟨0x6000#16, 0xF000#16⟩
  | .addImm _ _ => ⟨0x7000#16, 0xF000#16⟩
  | .ldReg _ _ => ⟨0x8000#16, 0xF00F#16⟩
  | .orReg _ _ => ⟨0x8001#16, 0xF00F#16⟩
  | .andReg _ _ => ⟨0x8002#16, 0xF00F#16⟩
  | .xorReg _ _ => ⟨0x8003#16, 0xF00F#16⟩
  | .addReg _ _ => ⟨0x8004#16, 0xF00F#16⟩
  | .subReg _ _ => ⟨0x8005#16, 0xF00F#16⟩
  | .shr _ _ => ⟨0x8006#16, 0xF00F#16⟩
  | .subn _ _ => ⟨0x8007#16, 0xF00F#16⟩
  | .shl _ _ => ⟨0x800E#16, 0xF00F#16⟩
  | .sneReg _ _ => ⟨0x9000#16, 0xF00F#16⟩
  | .ldI _ => ⟨0xA000#16, 0xF000#16⟩
  | .jpV0 _ => ⟨0xB000#16, 0xF000#16⟩
  | .rnd _ _ => ⟨0xC000#16, 0xF000#16⟩
  | .drw _ _ _ => ⟨0xD000#16, 0xF000#16⟩
  | .skp _ => ⟨0xE09E#16, 0xF0FF#16⟩
  | .sknp _ => ⟨0xE0A1#16, 0xF0FF#16⟩
  | .ldVxDt _ => ⟨0xF007#16, 0xF0FF#16⟩
  | .ldVxK _ => ⟨0xF00A#16, 0xF0FF#16⟩
  | .ldDtVx _ => ⟨0xF015#16, 0xF0FF#16⟩
  | .ldStVx _ => ⟨0xF018#16, 0xF0FF#16⟩
  | .addI _ => ⟨0xF01E#16, 0xF0FF#16⟩
  | .ldF _ => ⟨0xF029#16, 0xF0FF#16⟩
  | .ldB _ => ⟨0xF033#16, 0xF0FF#16⟩
  | .ldMemVx _ => ⟨0xF055#16, 0xF0FF#16⟩
  | .ldVxMem _ => ⟨0xF065#16, 0xF0FF#16⟩

/-- Rows 1 to 3 of the table: format W. -/
def tableW : List OpcodeRow := [Instr.row .nop, Instr.row .cls, Instr.row .ret]

/-- The rows of format NNN. -/
def tableNnn : List OpcodeRow :=
  [Instr.row (.jp 0), Instr.row (.call 0), Instr.row (.ldI 0), Instr.row (.jpV0 0)]

/-- The rows of format XNN. -/
def tableXnn : List OpcodeRow :=
  [Instr.row (.seImm 0 0), Instr.row (.sneImm 0 0), Instr.row (.ldImm 0 0), Instr.row (.addImm 0 0),
   Instr.row (.rnd 0 0)]

/-- The rows of format XY. -/
def tableXy : List OpcodeRow :=
  [Instr.row (.seReg 0 0), Instr.row (.ldReg 0 0), Instr.row (.orReg 0 0), Instr.row (.andReg 0 0),
   Instr.row (.xorReg 0 0), Instr.row (.addReg 0 0), Instr.row (.subReg 0 0), Instr.row (.shr 0 0),
   Instr.row (.subn 0 0), Instr.row (.shl 0 0), Instr.row (.sneReg 0 0)]

/-- The row of format XYN. -/
def tableXyn : List OpcodeRow := [Instr.row (.drw 0 0 0)]

/-- The rows of format XK. -/
def tableXk : List OpcodeRow :=
  [Instr.row (.skp 0), Instr.row (.sknp 0), Instr.row (.ldVxDt 0), Instr.row (.ldVxK 0), Instr.row (.ldDtVx 0),
   Instr.row (.ldStVx 0), Instr.row (.addI 0), Instr.row (.ldF 0), Instr.row (.ldB 0), Instr.row (.ldMemVx 0),
   Instr.row (.ldVxMem 0)]

/-- The 35 rows of the opcode table, by format. -/
def opcodeTable : List OpcodeRow := tableW ++ tableNnn ++ tableXnn ++ tableXy ++ tableXyn ++ tableXk

/-! ### Assembling (R80, R81) -/

/-- What a line puts into the image. -/
inductive AsmItem where
  | instr (i : Instr)
  | word (w : Word)
  | byte (b : Byte)
  deriving DecidableEq, Repr

/-- The register a number names (0 to 15). -/
def regOfNat (x : Nat) : Reg := Fin.ofNat 16 x

/-- The item of a line whose operands are in range. -/
def AsmLine.item : AsmLine → AsmItem
  | .nop => .instr .nop
  | .cls => .instr .cls
  | .ret => .instr .ret
  | .jp v => .instr (.jp (BitVec.ofNat 12 v))
  | .call v => .instr (.call (BitVec.ofNat 12 v))
  | .ldI v => .instr (.ldI (BitVec.ofNat 12 v))
  | .jpV0 v => .instr (.jpV0 (BitVec.ofNat 12 v))
  | .seImm x v => .instr (.seImm (regOfNat x) (BitVec.ofNat 8 v))
  | .sneImm x v => .instr (.sneImm (regOfNat x) (BitVec.ofNat 8 v))
  | .ldImm x v => .instr (.ldImm (regOfNat x) (BitVec.ofNat 8 v))
  | .addImm x v => .instr (.addImm (regOfNat x) (BitVec.ofNat 8 v))
  | .rnd x v => .instr (.rnd (regOfNat x) (BitVec.ofNat 8 v))
  | .seReg x y => .instr (.seReg (regOfNat x) (regOfNat y))
  | .sneReg x y => .instr (.sneReg (regOfNat x) (regOfNat y))
  | .ldReg x y => .instr (.ldReg (regOfNat x) (regOfNat y))
  | .orReg x y => .instr (.orReg (regOfNat x) (regOfNat y))
  | .andReg x y => .instr (.andReg (regOfNat x) (regOfNat y))
  | .xorReg x y => .instr (.xorReg (regOfNat x) (regOfNat y))
  | .addReg x y => .instr (.addReg (regOfNat x) (regOfNat y))
  | .subReg x y => .instr (.subReg (regOfNat x) (regOfNat y))
  | .shr x y => .instr (.shr (regOfNat x) (regOfNat y))
  | .subn x y => .instr (.subn (regOfNat x) (regOfNat y))
  | .shl x y => .instr (.shl (regOfNat x) (regOfNat y))
  | .drw x y n => .instr (.drw (regOfNat x) (regOfNat y) (BitVec.ofNat 4 n))
  | .skp x => .instr (.skp (regOfNat x))
  | .sknp x => .instr (.sknp (regOfNat x))
  | .ldVxDt x => .instr (.ldVxDt (regOfNat x))
  | .ldVxK x => .instr (.ldVxK (regOfNat x))
  | .ldDtVx x => .instr (.ldDtVx (regOfNat x))
  | .ldStVx x => .instr (.ldStVx (regOfNat x))
  | .addI x => .instr (.addI (regOfNat x))
  | .ldF x => .instr (.ldF (regOfNat x))
  | .ldB x => .instr (.ldB (regOfNat x))
  | .ldMemVx x => .instr (.ldMemVx (BitVec.ofNat 4 x))
  | .ldVxMem x => .instr (.ldVxMem (BitVec.ofNat 4 x))
  | .dw v => .word (BitVec.ofNat 16 v)
  | .db v => .byte (BitVec.ofNat 8 v)

/-- The line an assembler reads back as the instruction: its mnemonic and its operands as numbers (R80). -/
def Instr.line : Instr → AsmLine
  | .nop => .nop
  | .cls => .cls
  | .ret => .ret
  | .jp v => .jp v.toNat
  | .call v => .call v.toNat
  | .seImm x v => .seImm x.val v.toNat
  | .sneImm x v => .sneImm x.val v.toNat
  | .seReg x y => .seReg x.val y.val
  | .ldImm x v => .ldImm x.val v.toNat
  | .addImm x v => .addImm x.val v.toNat
  | .ldReg x y => .ldReg x.val y.val
  | .orReg x y => .orReg x.val y.val
  | .andReg x y => .andReg x.val y.val
  | .xorReg x y => .xorReg x.val y.val
  | .addReg x y => .addReg x.val y.val
  | .subReg x y => .subReg x.val y.val
  | .shr x y => .shr x.val y.val
  | .subn x y => .subn x.val y.val
  | .shl x y => .shl x.val y.val
  | .sneReg x y => .sneReg x.val y.val
  | .ldI v => .ldI v.toNat
  | .jpV0 v => .jpV0 v.toNat
  | .rnd x v => .rnd x.val v.toNat
  | .drw x y n => .drw x.val y.val n.toNat
  | .skp x => .skp x.val
  | .sknp x => .sknp x.val
  | .ldVxDt x => .ldVxDt x.val
  | .ldVxK x => .ldVxK x.val
  | .ldDtVx x => .ldDtVx x.val
  | .ldStVx x => .ldStVx x.val
  | .addI x => .addI x.val
  | .ldF x => .ldF x.val
  | .ldB x => .ldB x.val
  | .ldMemVx x => .ldMemVx x.toNat
  | .ldVxMem x => .ldVxMem x.toNat

/-- The bytes of an item: an instruction and a DW are one word, high byte first; a DB is one byte (R80). -/
def AsmItem.bytes : AsmItem → List Byte
  | .instr i => bytesOfWord (encode i)
  | .word w => bytesOfWord w
  | .byte b => [b]

/-- The bytes of a line, or the assembler's refusal where an operand is out of range (R80). -/
def AsmLine.assemble (l : AsmLine) : Option (List Byte) :=
  if l.wellFormed then some l.item.bytes else none

/-- The bytes of a source, refused as a whole if one line is. -/
def assembleSource : List AsmLine → Option (List Byte)
  | [] => some []
  | l :: ls =>
    match l.assemble, assembleSource ls with
    | some bs, some rest => some (bs ++ rest)
    | _, _ => none

/-- `JP V0, nnn` deserves the warning of R80: in modern mode the register is `V[nnn[11:8]]`, which is not V0. -/
def AsmLine.warns (legacyMode : Bool) : AsmLine → Bool
  | .jpV0 v => !legacyMode && v / 256 != 0
  | _ => false

/-! ### The decoder on the opcode table's own numbering of bits -/

/-- The instruction the decoder reads from the word `w` (bit 0 the least significant) whose low `nbits` bits are given
and whose other bits are 0, laid out as memory holds it. -/
def decodeTableWord (nbits w : Nat) : Option Instr :=
  match decodeBytes (bytesOfWord (BitVec.ofNat 16 (w % 2 ^ nbits))) with
  | .instr i _ => some i
  | .unknown _ _ => none
  | .truncated => none

end Sys2Proof
end

