-- ==== Sys2Proof/Machine/Font.lean ====
section
/-! DEFINITION. The default FONT_ROM (10_state.md R33) and the configuration `State.reset` is built with (00_scope.md
R8, R9). Every other configuration is reached by `State.resetWith` and `State.rst`. -/

namespace Sys2Proof.Machine

/-- Digits 0 to 3 of the default FONT_ROM (R33). -/
def fontDigits0to3 : Vector Glyph 4 :=
  #v[#v[0xF0#8, 0x90#8, 0x90#8, 0x90#8, 0xF0#8],
     #v[0x20#8, 0x60#8, 0x20#8, 0x20#8, 0x70#8],
     #v[0xF0#8, 0x10#8, 0xF0#8, 0x80#8, 0xF0#8],
     #v[0xF0#8, 0x10#8, 0xF0#8, 0x10#8, 0xF0#8]]

/-- Digits 4 to 7 of the default FONT_ROM (R33). -/
def fontDigits4to7 : Vector Glyph 4 :=
  #v[#v[0x90#8, 0x90#8, 0xF0#8, 0x10#8, 0x10#8],
     #v[0xF0#8, 0x80#8, 0xF0#8, 0x10#8, 0xF0#8],
     #v[0xF0#8, 0x80#8, 0xF0#8, 0x90#8, 0xF0#8],
     #v[0xF0#8, 0x10#8, 0x20#8, 0x40#8, 0x40#8]]

/-- Digits 8 to B of the default FONT_ROM (R33). -/
def fontDigits8toB : Vector Glyph 4 :=
  #v[#v[0xF0#8, 0x90#8, 0xF0#8, 0x90#8, 0xF0#8],
     #v[0xF0#8, 0x90#8, 0xF0#8, 0x10#8, 0xF0#8],
     #v[0xF0#8, 0x90#8, 0xF0#8, 0x90#8, 0x90#8],
     #v[0xE0#8, 0x90#8, 0xE0#8, 0x90#8, 0xE0#8]]

/-- Digits C to F of the default FONT_ROM (R33). -/
def fontDigitsCtoF : Vector Glyph 4 :=
  #v[#v[0xF0#8, 0x80#8, 0x80#8, 0x80#8, 0xF0#8],
     #v[0xE0#8, 0x90#8, 0x90#8, 0x90#8, 0xE0#8],
     #v[0xF0#8, 0x80#8, 0xF0#8, 0x80#8, 0xF0#8],
     #v[0xF0#8, 0x80#8, 0xF0#8, 0x80#8, 0x80#8]]

/-- The default FONT_ROM: the conventional hex font (R33, general knowledge of the spec's; log 5). -/
def defaultFontRom : FontRom := fontDigits0to3 ++ fontDigits4to7 ++ fontDigits8toB ++ fontDigitsCtoF

/-- The configuration of `State.reset`: the defaults of R9 (log 5, log 7), and modern mode, for which the spec gives no
default (DESIGN CHOICE, unsafe; log 6). -/
def defaultConfig : Config :=
  { legacyMode := false, fontRom := defaultFontRom, fx1eVfNotOver := .unchanged, legacyBlockAddr := .base }

end Sys2Proof.Machine
end

