-- ==== Sys2Proof/Machine/State.lean ====
section
/-! DEFINITION. Everything the spec gives the machine to hold (10_state.md), as plain data; the reasons a step can
stop; and the state after reset (10_state.md R39). -/

namespace Sys2Proof.Machine

/-- FAULT_CODE (60_exceptions.md R231). -/
inductive FaultCode where
  | none
  | stackOverflow
  | stackUnderflow
  | memRange
  | fetchRange
  | keyRange
  deriving DecidableEq, Repr

/-- The two inputs of a cycle (10_state.md R36): the key snapshot, bit k for key k, and the random byte. -/
structure CycleInput where
  keys : BitVec 16
  rand : Byte
  deriving DecidableEq, Repr

/-- A diagnostic event: diag_word and diag_pc of a cycle whose diag_valid is 1 (10_state.md R41). -/
structure Diag where
  word : Word
  pc   : Word
  deriving DecidableEq, Repr

/-- The address space as (address, byte) pairs, addresses strictly rising and no pair equal to what its address reads
as unlisted (20_memory.md R50; the form is `Memory.wf`). -/
abbrev Memory := List Host.Cell

/-- The frame buffer, one 64-bit row for each r = 0..31; bit c of row r is the 1-bit cell FB[c][r] (10_state.md R34). -/
abbrev FrameBuffer := Vector (BitVec 64) 32

/-- The reasons a step stops for a fault. There are none, hence no constructor: each of the spec's five faults is an
entry the spec describes (60_exceptions.md R232), which the model takes as a next state, and the frozen machine is a
state (R233). Nobody raises a fault of this type; safe or unsafe does not arise (log 10). -/
inductive Fault where
  deriving DecidableEq, Repr

/-- The reasons a step refuses. -/
inductive Refusal where
  /-- Raised only by an arm of `exec` whose instruction has no meaning yet; no arm raises it now. Safe: the machine
  stops where the hardware goes on. -/
  | notModelled (mnemonic : String)
  deriving DecidableEq, Repr

/-- The machine's state. The fields up to `cfg` are the spec's; the last four are the model's own (log 1, log 9). -/
structure State where
  /-- V[0..15], the general registers; V[15] is VF (R20, R21) -/
  v         : Vector Byte 16
  /-- I, the index register (R23) -/
  i         : Word
  /-- PC (R24): the next fetch's address; while an instruction executes, its address plus 2 -/
  pc        : Word
  /-- SP (R27): 0 is the empty stack -/
  sp        : BitVec 4
  /-- STACK[0..15] (R26) -/
  stack     : Vector Word 16
  /-- DT, the delay timer (R28) -/
  dt        : Byte
  /-- ST, the sound timer (R28) -/
  st        : Byte
  /-- WAITING (R29) -/
  waiting   : Bool
  /-- WAIT_X, the register of the waiting Fx0A (R30) -/
  waitX     : Reg
  /-- MEM (R32) -/
  mem       : Memory
  /-- FB (R34) -/
  fb        : FrameBuffer
  /-- KEY[0..15], the input latch: bit k is KEY[k] (R35) -/
  key       : BitVec 16
  /-- FAULTED (R40) -/
  faulted   : Bool
  /-- FAULT_CODE (R40, R231) -/
  faultCode : FaultCode
  /-- FAULT_PC (R40) -/
  faultPc   : Word
  /-- FAULT_WORD (R40) -/
  faultWord : Word
  /-- LEGACY and the open parameters, constant for the machine's lifetime (R31, R8, R9; log 8) -/
  cfg       : Config
  /-- the inputs already fixed for the coming cycles, oldest first (log 1) -/
  inputs    : List CycleInput
  /-- how many inputs have been sampled (log 1) -/
  tick      : Nat
  /-- the random byte sampled by the latest cycle (R36; log 1) -/
  rand      : Byte
  /-- the diagnostic outputs of the latest cycle, none where diag_valid is 0 (R41; log 9) -/
  diag      : Option Diag
  deriving DecidableEq, Repr

/-- The state after reset under a configuration, before any program is loaded (R39, R250). The last four fields are the
model's own (log 25). -/
def State.resetWith (c : Config) : State :=
  { v := Vector.replicate 16 0x00#8
    i := 0x0000#16
    pc := 0x0200#16
    sp := 0#4
    stack := Vector.replicate 16 0x0000#16
    dt := 0#8
    st := 0#8
    waiting := false
    waitX := 0
    mem := []
    fb := Vector.replicate 32 0#64
    key := 0#16
    faulted := false
    faultCode := .none
    faultPc := 0x0000#16
    faultWord := 0x0000#16
    cfg := c
    inputs := []
    tick := 0
    rand := 0#8
    diag := none }

/-- The machine right after reset, with the default configuration (R39, R250; log 6). -/
def State.reset : State := State.resetWith defaultConfig

end Sys2Proof.Machine
end

