-- ==== Sys2Proof/Machine/Ops.lean ====
section
/-! DEFINITION. The named operations over registers, memory, call stack, frame buffer, latch and halt control that the
instruction meanings are written over, the raising of a fault, and reset, the only way out of a fault. -/

namespace Sys2Proof.Machine

/-! ### Memory (20_memory.md) -/

/-- The highest address (R50). -/
def topAddr : Nat := 0xFFF

/-- The address exists (R55). -/
def inSpace (a : Nat) : Bool := decide (a ≤ topAddr)

/-- What an unlisted address reads as: the reset contents, FONT_ROM at 0x000..0x04F with glyph d at 5d..5d+4 (R33,
R51), and 0x00 elsewhere (R39, R51; log 4). -/
def unlisted (font : FontRom) (a : Nat) : Byte :=
  if h : a < 80 then
    have : a / 5 < 16 := Nat.div_lt_of_lt_mul h
    have : a % 5 < 5 := Nat.mod_lt a (by decide)
    font[a / 5][a % 5]
  else 0x00#8

/-- The byte at an address; `d` gives what an unlisted address reads as (R14, R59). -/
def Memory.read (d : Nat → Byte) : Memory → Nat → Byte
  | [], a => d a
  | (b, u) :: m, a => if a = b then u else Memory.read d m a

/-- The memory after a byte is written, in canonical form: the pair is dropped where the byte equals what the address
reads as unlisted (R14, R59). -/
def Memory.write (d : Nat → Byte) : Memory → Nat → Byte → Memory
  | [], a, x => if x = d a then [] else [(a, x)]
  | (b, u) :: m, a, x =>
    if a < b then (if x = d a then (b, u) :: m else (a, x) :: (b, u) :: m)
    else if a = b then (if x = d a then m else (a, x) :: m)
    else (b, u) :: Memory.write d m a x

/-- The canonical form above a bound: addresses strictly rise from `lo`, lie in the space, and no pair equals what its
address reads as unlisted. -/
def Memory.wfFrom (d : Nat → Byte) : Nat → Memory → Bool
  | _, [] => true
  | lo, (b, u) :: m => decide (lo ≤ b) && inSpace b && (u != d b) && Memory.wfFrom d (b + 1) m

/-- The canonical form of a memory. -/
def Memory.wf (d : Nat → Byte) (m : Memory) : Bool := Memory.wfFrom d 0 m

/-- `n` bytes from `a` on, `stride` apart. -/
def Memory.readBlock (d : Nat → Byte) (m : Memory) (stride : Nat) : Nat → Nat → List Byte
  | _, 0 => []
  | a, n + 1 => Memory.read d m a :: Memory.readBlock d m stride (a + stride) n

/-- The bytes written from `a` on, `stride` apart, the first one first. -/
def Memory.writeBlock (d : Nat → Byte) (stride : Nat) : Memory → Nat → List Byte → Memory
  | m, _, [] => m
  | m, a, x :: xs => Memory.writeBlock d stride (Memory.write d m a x) (a + stride) xs

/-- What this machine's unlisted addresses read as. -/
def State.unlisted (s : State) : Nat → Byte := Sys2Proof.Machine.unlisted s.cfg.fontRom

/-- `MemRead(a, 1)` (R14). Defined for every number; every rule calls it in 0..0xFFF only (log 21). -/
def State.readByte (s : State) (a : Nat) : Byte := Memory.read s.unlisted s.mem a

/-- The machine with another memory. -/
def State.setMem (s : State) (m : Memory) : State := { s with mem := m }

/-- `MemWrite(a, 1, x)` (R14). -/
def State.writeByte (s : State) (a : Nat) (x : Byte) : State := s.setMem (Memory.write s.unlisted s.mem a x)

/-- `n` bytes from `a` on, `stride` apart. -/
def State.readBytes (s : State) (stride a n : Nat) : List Byte := Memory.readBlock s.unlisted s.mem stride a n

/-- Bytes stored from `a` on, `stride` apart. -/
def State.writeBytes (s : State) (stride a : Nat) (xs : List Byte) : State :=
  s.setMem (Memory.writeBlock s.unlisted stride s.mem a xs)

/-- The word at an address, the byte at the address being the high one (R53; log 12). -/
def State.readWord (s : State) (a : Nat) : Word := wordOfBytes (s.readByte a) (s.readByte (a + 1))

/-! ### Registers (10_state.md R20 to R25) -/

/-- `V[x]`. -/
def State.getV (s : State) (x : Reg) : Byte := s.v[x]

/-- `V[x] <- b`. -/
def State.setV (s : State) (x : Reg) (b : Byte) : State := { s with v := s.v.set x b }

/-- The register file with the bytes in registers `j`, `j+1`, and so on (43_index_memory.md R165). -/
def loadRegs : Vector Byte 16 → Nat → List Byte → Vector Byte 16
  | v, _, [] => v
  | v, j, b :: bs => loadRegs (v.setIfInBounds j b) (j + 1) bs

/-- `V[j] <- bs[j]` for each byte of the list. -/
def State.setVs (s : State) (bs : List Byte) : State := { s with v := loadRegs s.v 0 bs }

/-- `V[0], …, V[n-1]` (R164, R166). -/
def State.firstVs (s : State) (n : Nat) : List Byte := s.v.toList.take n

/-- `I <- a`. -/
def State.setI (s : State) (a : Word) : State := { s with i := a }

/-- `PC <- a`. -/
def State.setPc (s : State) (a : Word) : State := { s with pc := a }

/-- The fetch increment, and a skip's: `PC <- (PC + 2) mod 65536` (R24, R25). -/
def State.advance (s : State) : State := s.setPc (s.pc + 2#16)

/-- A skip taken where the condition holds (41_control_flow.md R128). -/
def State.skipIf (s : State) (c : Bool) : State := if c then s.advance else s

/-- `DT <- b`. -/
def State.setDt (s : State) (b : Byte) : State := { s with dt := b }

/-- `ST <- b`. -/
def State.setSt (s : State) (b : Byte) : State := { s with st := b }

/-! ### Call stack (10_state.md R26, R27) -/

/-- Push: pre-increment, then `STACK[SP] <- a`. -/
def State.push (s : State) (a : Word) : State :=
  { s with sp := s.sp + 1#4, stack := s.stack.set (s.sp + 1#4).toNat a (s.sp + 1#4).isLt }

/-- The slot a pop reads: `STACK[SP]`. -/
def State.top (s : State) : Word := s.stack[s.sp.toNat]'s.sp.isLt

/-- Pop: `PC <- STACK[SP]`, then post-decrement. -/
def State.popPc (s : State) : State := { s with pc := s.top, sp := s.sp - 1#4 }

/-! ### Frame buffer (44_display.md R180 to R182) -/

/-- `FB[c][r]`. Columns and rows wrap, so that every pair of numbers names a cell. -/
def FrameBuffer.cell (fb : FrameBuffer) (c r : Nat) : Bool :=
  (fb[r % 32]'(Nat.mod_lt r (by decide))).getLsbD (c % 64)

/-- `FB[c][r] <- FB[c][r] ^ bit`. -/
def FrameBuffer.xorCell (fb : FrameBuffer) (c r : Nat) (bit : Bool) : FrameBuffer :=
  fb.set (r % 32)
    ((fb[r % 32]'(Nat.mod_lt r (by decide))) ^^^ (if bit then BitVec.twoPow 64 (c % 64) else 0#64))
    (Nat.mod_lt r (by decide))

/-- Bit k of a sprite row from the left: `(byte >> (7 - k)) & 1` (R180, R182). -/
def spriteBit (b : Byte) (k : Nat) : Bool := b.getLsbD (7 - k)

/-- The loop of `draw_row` over the positions in the list; the flag says whether a cell went from 1 to 0 (R180). -/
def FrameBuffer.drawBits (px py : Nat) (b : Byte) : List Nat → FrameBuffer → Bool → FrameBuffer × Bool
  | [], fb, hit => (fb, hit)
  | k :: ks, fb, hit =>
    FrameBuffer.drawBits px py b ks (fb.xorCell (px + k) py (spriteBit b k))
      (hit || (fb.cell (px + k) py && !(fb.xorCell (px + k) py (spriteBit b k)).cell (px + k) py))

/-- `draw_row(px, py, byte)` (R180). -/
def FrameBuffer.drawRow (fb : FrameBuffer) (px py : Nat) (b : Byte) : FrameBuffer × Bool :=
  FrameBuffer.drawBits px py b [0, 1, 2, 3, 4, 5, 6, 7] fb false

/-- A sprite drawn row by row, each on the row below the last; the flag ORs the rows' collisions (R184). -/
def FrameBuffer.drawRows (px : Nat) : Nat → List Byte → FrameBuffer → Bool → FrameBuffer × Bool
  | _, [], fb, hit => (fb, hit)
  | py, b :: bs, fb, hit =>
    FrameBuffer.drawRows px (py + 1) bs (fb.drawRow px py b).1 (hit || (fb.drawRow px py b).2)

/-- `clear()` (R181). -/
def FrameBuffer.clear : FrameBuffer := Vector.replicate 32 0#64

/-- The machine with another frame buffer. -/
def State.setFb (s : State) (fb : FrameBuffer) : State := { s with fb := fb }

/-- `FB[c][r]` of the machine. -/
def State.cell (s : State) (c r : Nat) : Bool := FrameBuffer.cell s.fb c r

/-! ### Input latch and halt control (45_timers_input.md) -/

/-- `KEY[k]`, where `true` is pressed (R35). -/
def State.pressed (s : State) (k : Reg) : Bool := s.key.getLsbD k.val

/-- The key indices in scan order, 0x0 to 0xF. -/
def scanOrder : List Reg := [0, 1, 2, 3, 4, 5, 6, 7, 8, 9, 10, 11, 12, 13, 14, 15]

/-- The lowest pressed key, if a key is pressed (R208, R210; log 16). -/
def State.lowestPressed (s : State) : Option Reg := scanOrder.find? (fun k => s.pressed k)

/-- A key index as a register's value. -/
def byteOfReg (k : Reg) : Byte := BitVec.ofNat 8 k.val

/-- WAITING set and WAIT_X latched (R208, R209). -/
def State.startWait (s : State) (x : Reg) : State := { s with waiting := true, waitX := x }

/-- WAITING cleared (R210). -/
def State.endWait (s : State) : State := { s with waiting := false }

/-! ### Faults and reset (60_exceptions.md, 70_reset_and_hazards.md) -/

/-- FAULT ENTRY (60_exceptions.md R232): the machine freezes with the record of R231, PC at the faulting instruction's
address. Used on a state that holds nothing the instruction wrote but the fetch increment, which this takes back. -/
def State.enterFault (s : State) (code : FaultCode) (pc0 w : Word) : State :=
  { s with pc := pc0, faulted := true, faultCode := code, faultPc := pc0, faultWord := w }

/-- `raise Fault(code)` by the instruction `i` in its execute phase (00_scope.md R15). PC is the instruction's address
plus 2, so that its address is PC - 2, and its word is `encode i` (log 11). -/
def State.raise (s : State) (code : FaultCode) (i : Instr) : State :=
  s.enterFault code (s.pc - 2#16) (encode i)

/-- There is no return from a fault (60_exceptions.md R233). `rst` is the only way out: it puts every piece of state at
its reset value and samples the legacy strap; FONT_ROM is loaded again and the parameters stay (70_reset_and_hazards.md
R251). The environment's inputs are not the machine's and stay (log 19). -/
def State.rst (s : State) (legacyStrap : Bool) : State :=
  { State.resetWith { s.cfg with legacyMode := legacyStrap } with inputs := s.inputs, tick := s.tick }

/-- The program load: the image copied to 0x200 and on, refused where it is longer than 0xE00 bytes (R253, R254). -/
def State.load (s : State) (img : List Byte) : Option State :=
  if img.length ≤ 0xE00 then some (s.writeBytes 1 0x200 img) else none

/-- One write of the load port, `ld_we = 1` (10_state.md R43, R253). -/
def State.loadPort (s : State) (addr : Addr12) (data : Byte) : State := s.writeByte addr.toNat data

/-! ### Output ports (10_state.md R43) -/

/-- `fault_code` (60_exceptions.md R231). -/
def FaultCode.bits : FaultCode → BitVec 3
  | .none => 0#3
  | .stackOverflow => 1#3
  | .stackUnderflow => 2#3
  | .memRange => 3#3
  | .fetchRange => 4#3
  | .keyRange => 5#3

/-- `fb_rd_data` for `fb_rd_addr = r*64 + c` (R43, R187). -/
def State.fbRead (s : State) (addr : BitVec 11) : Bool := s.cell (addr.toNat % 64) (addr.toNat / 64)

/-- `st_out` (R43, 45_timers_input.md R213). -/
def State.stOut (s : State) : Byte := s.st

/-- `diag_valid` (R41). -/
def State.diagValid (s : State) : Bool := s.diag.isSome

/-- The diagnostic outputs of a cycle. -/
def State.setDiag (s : State) (d : Option Diag) : State := { s with diag := d }

end Sys2Proof.Machine
end

