-- ==== Sys2Proof/Machine/Operands.lean ====
section
/-! DEFINITION. The operand forms (30_encoding.md R72, R73): what each instruction reads, and the addresses it
computes. -/

namespace Sys2Proof.Machine

/-- `zext_16(nnn)` (R72). -/
def zext16 (nnn : Addr12) : Word := nnn.setWidth 16

/-- A register's value zero-extended to 16 bits. -/
def zextByte (b : Byte) : Word := b.setWidth 16

/-- The value 8xy6 and 8xyE shift: V[y] in legacy mode, V[x] in modern mode (42_alu.md R148, R150). -/
def State.shiftSource (s : State) (x y : Reg) : Byte := if s.cfg.legacyMode then s.getV y else s.getV x

/-- The register named by `nnn[11:8]` (30_encoding.md R71). -/
def topNibble (nnn : Addr12) : Reg := (nnn.extractLsb' 8 4).toFin

/-- The register Bnnn adds: V[0] in legacy mode, V[nnn[11:8]] in modern mode (41_control_flow.md R127). -/
def State.jumpBase (s : State) (nnn : Addr12) : Byte :=
  if s.cfg.legacyMode then s.getV 0 else s.getV (topNibble nnn)

/-- How far apart a block transfer's bytes lie: 2 in legacy mode with the Running reading, else 1
(43_index_memory.md R168). -/
def blockStride (c : Config) : Nat :=
  match c.legacyMode, c.legacyBlockAddr with
  | true, .running => 2
  | true, .base => 1
  | false, _ => 1

/-- `addr(base, i)` (R168). -/
def blockAddr (c : Config) (base i : Nat) : Nat := base + blockStride c * i

/-- An address of the block transfer of `n` bytes lies outside the memory (20_memory.md R55, R164, R165): the last one
is the highest. -/
def State.blockOut (s : State) (n : Nat) : Bool :=
  decide (0 < n) && !inSpace (blockAddr s.cfg s.i.toNat (n - 1))

/-- An address of the `n` bytes at I lies outside the memory (R55, R163, 44_display.md R184). -/
def State.rangeOut (s : State) (n : Nat) : Bool := decide (0 < n) && !inSpace (s.i.toNat + n - 1)

/-- The key a register's value names, if it names one of the 16 (45_timers_input.md R207; log 15). -/
def keyIndex (b : Byte) : Option Reg := if h : b.toNat < 16 then some ⟨b.toNat, h⟩ else none

/-- The three decimal digits of a byte, hundreds first (43_index_memory.md R163). -/
def bcdDigits (b : Byte) : List Byte :=
  [BitVec.ofNat 8 (b.toNat / 100), BitVec.ofNat 8 (b.toNat / 10 % 10), BitVec.ofNat 8 (b.toNat % 10)]

/-- The address of a glyph: `V[x] * 5`, without a mask (43_index_memory.md R162). -/
def glyphAddr (b : Byte) : Word := BitVec.ofNat 16 (b.toNat * 5)

end Sys2Proof.Machine
end

