-- ==== Sys2Proof/Machine/Flags.lean ====
section
/-! DEFINITION. Every flag computation (10_state.md R21) and the order in which flag and result are written
(42_alu.md R153). VF is the only flag. -/

namespace Sys2Proof.Machine

/-- A flag as the byte VF takes. -/
def flagByte (b : Bool) : Byte := if b then 1#8 else 0#8

/-- 8xy4: the sum exceeds 255 (42_alu.md R146). -/
def carryFlag (a b : Byte) : Bool := decide (a.toNat + b.toNat > 255)

/-- 8xy5, and 8xy7 with its operands exchanged: no borrow (R147, R149). -/
def noBorrowFlag (a b : Byte) : Bool := decide (a.toNat ≥ b.toNat)

/-- 8xy6: bit 0 of the value about to be shifted (R148). -/
def lowBitFlag (a : Byte) : Bool := a.getLsbD 0

/-- 8xyE: bit 7 of the value about to be shifted (R150). -/
def highBitFlag (a : Byte) : Bool := a.getLsbD 7

/-- VF after Fx1E: 1 where the new index exceeds decimal 1000, else as FX1E_VF_NOT_OVER says (43_index_memory.md R161;
log 7). -/
def indexFlag (c : Config) (i2 : Word) (vf : Byte) : Byte :=
  if i2.toNat > 1000 then 1#8
  else match c.fx1eVfNotOver with
    | .unchanged => vf
    | .zero => 0#8

/-- The flag into VF, then the result into V[x], so that the result stays where x = F (42_alu.md R153; log 18). -/
def State.writeFlagged (s : State) (x : Reg) (flag : Bool) (result : Byte) : State :=
  (s.setV VF (flagByte flag)).setV x result

end Sys2Proof.Machine
end

