-- ==== Sys2Proof/Machine/Control.lean ====
section
/-! DEFINITION. The control-transfer family (41_control_flow.md) and the no-op (40_cycle_and_decode.md R105). The state
a meaning is given is the one after the fetch: PC is the instruction's address plus 2 (10_state.md R24). -/

namespace Sys2Proof.Machine

/-- What a meaning answers. -/
abbrev Result := Host.Outcome State Fault Refusal

/-- 0000 NOP (R105): PC keeps the fetch increment. -/
def execNop (s : State) : Result := .next s

/-- 00EE RET (R120). -/
def execRet (s : State) : Result :=
  if s.sp = 0#4 then .next (s.raise .stackUnderflow .ret) else .next s.popPc

/-- 1nnn JP nnn (R121). -/
def execJp (nnn : Addr12) (s : State) : Result := .next (s.setPc (zext16 nnn))

/-- 2nnn CALL nnn (R122). -/
def execCall (nnn : Addr12) (s : State) : Result :=
  if s.sp = 15#4 then .next (s.raise .stackOverflow (.call nnn))
  else .next ((s.push s.pc).setPc (zext16 nnn))

/-- 3xnn SE Vx, nn (R123). -/
def execSeImm (x : Reg) (nn : Byte) (s : State) : Result := .next (s.skipIf (decide (s.getV x = nn)))

/-- 4xnn SNE Vx, nn (R124). -/
def execSneImm (x : Reg) (nn : Byte) (s : State) : Result := .next (s.skipIf (decide (s.getV x ≠ nn)))

/-- 5xy0 SE Vx, Vy (R125). -/
def execSeReg (x y : Reg) (s : State) : Result := .next (s.skipIf (decide (s.getV x = s.getV y)))

/-- 9xy0 SNE Vx, Vy (R126). -/
def execSneReg (x y : Reg) (s : State) : Result := .next (s.skipIf (decide (s.getV x ≠ s.getV y)))

/-- Bnnn JP V0, nnn (R127). -/
def execJpV0 (nnn : Addr12) (s : State) : Result :=
  .next (s.setPc (zext16 nnn + zextByte (s.jumpBase nnn)))

end Sys2Proof.Machine
end

