-- ==== Sys2Proof/Machine/Alu.lean ====
section
/-! DEFINITION. The register-file and ALU datapath (42_alu.md). None of these raises a fault. -/

namespace Sys2Proof.Machine

/-- 6xnn LD Vx, nn (R140). -/
def execLdImm (x : Reg) (nn : Byte) (s : State) : Result := .next (s.setV x nn)

/-- 7xnn ADD Vx, nn (R141). -/
def execAddImm (x : Reg) (nn : Byte) (s : State) : Result := .next (s.setV x (s.getV x + nn))

/-- 8xy0 LD Vx, Vy (R142). -/
def execLdReg (x y : Reg) (s : State) : Result := .next (s.setV x (s.getV y))

/-- 8xy1 OR Vx, Vy (R143). -/
def execOrReg (x y : Reg) (s : State) : Result := .next (s.setV x (s.getV x ||| s.getV y))

/-- 8xy2 AND Vx, Vy (R144). -/
def execAndReg (x y : Reg) (s : State) : Result := .next (s.setV x (s.getV x &&& s.getV y))

/-- 8xy3 XOR Vx, Vy (R145). -/
def execXorReg (x y : Reg) (s : State) : Result := .next (s.setV x (s.getV x ^^^ s.getV y))

/-- 8xy4 ADD Vx, Vy (R146). -/
def execAddReg (x y : Reg) (s : State) : Result :=
  .next (s.writeFlagged x (carryFlag (s.getV x) (s.getV y)) (s.getV x + s.getV y))

/-- 8xy5 SUB Vx, Vy (R147). -/
def execSubReg (x y : Reg) (s : State) : Result :=
  .next (s.writeFlagged x (noBorrowFlag (s.getV x) (s.getV y)) (s.getV x - s.getV y))

/-- 8xy6 SHR Vx, Vy (R148, R154). -/
def execShr (x y : Reg) (s : State) : Result :=
  .next (s.writeFlagged x (lowBitFlag (s.shiftSource x y)) (s.shiftSource x y >>> 1))

/-- 8xy7 SUBN Vx, Vy (R149). -/
def execSubn (x y : Reg) (s : State) : Result :=
  .next (s.writeFlagged x (noBorrowFlag (s.getV y) (s.getV x)) (s.getV y - s.getV x))

/-- 8xyE SHL Vx, Vy (R150, R154). -/
def execShl (x y : Reg) (s : State) : Result :=
  .next (s.writeFlagged x (highBitFlag (s.shiftSource x y)) (s.shiftSource x y <<< 1))

/-- Cxnn RND Vx, nn (R151): the cycle's random byte under the mask. -/
def execRnd (x : Reg) (nn : Byte) (s : State) : Result := .next (s.setV x (s.rand &&& nn))

end Sys2Proof.Machine
end

