-- ==== Sys2Proof/Machine/Display.lean ====
section
/-! DEFINITION. The framebuffer instructions (44_display.md). -/

namespace Sys2Proof.Machine

/-- 00E0 CLS (R183): VF is not written. -/
def execCls (s : State) : Result := .next (s.setFb FrameBuffer.clear)

/-- The frame buffer and the collision flag of the draw Dxyn makes at (V[x], V[y]) with the `n` bytes at I (R184). -/
def State.drawn (s : State) (x y : Reg) (n : Nat) : FrameBuffer × Bool :=
  FrameBuffer.drawRows (s.getV x).toNat (s.getV y).toNat (s.readBytes 1 s.i.toNat n) s.fb false

/-- Dxyn DRW Vx, Vy, n (R184): VF is written after the draw. -/
def execDrw (x y : Reg) (n : Nibble) (s : State) : Result :=
  if s.rangeOut n.toNat then .next (s.raise .memRange (.drw x y n))
  else .next ((s.setFb (s.drawn x y n.toNat).1).setV VF (flagByte (s.drawn x y n.toNat).2))

end Sys2Proof.Machine
end

