-- ==== Sys2Proof/Machine/Index.lean ====
section
/-! DEFINITION. The index register and the memory transfers (43_index_memory.md). Every address is checked before any
access, all or nothing (20_memory.md R55; log 17). -/

namespace Sys2Proof.Machine

/-- Annn LD I, nnn (R160). -/
def execLdI (nnn : Addr12) (s : State) : Result := .next (s.setI (zext16 nnn))

/-- Fx1E ADD I, Vx (R161): V[x] is read before VF is written. -/
def execAddI (x : Reg) (s : State) : Result :=
  .next ((s.setI (s.i + zextByte (s.getV x))).setV VF
    (indexFlag s.cfg (s.i + zextByte (s.getV x)) (s.getV VF)))

/-- Fx29 LD F, Vx (R162). -/
def execLdF (x : Reg) (s : State) : Result := .next (s.setI (glyphAddr (s.getV x)))

/-- Fx33 LD B, Vx (R163). -/
def execLdB (x : Reg) (s : State) : Result :=
  if s.rangeOut 3 then .next (s.raise .memRange (.ldB x))
  else .next (s.writeBytes 1 s.i.toNat (bcdDigits (s.getV x)))

/-- I after a block transfer of `n` registers: I + n in legacy mode, unchanged in modern mode (R167). -/
def State.bumpI (s : State) (n : Nibble) : State :=
  if s.cfg.legacyMode then s.setI (s.i + n.setWidth 16) else s

/-- Fx55 LD [I], Vx (R164, R166, R167, R168). -/
def execLdMemVx (x : Nibble) (s : State) : Result :=
  if s.blockOut x.toNat then .next (s.raise .memRange (.ldMemVx x))
  else .next ((s.writeBytes (blockStride s.cfg) s.i.toNat (s.firstVs x.toNat)).bumpI x)

/-- Fx65 LD Vx, [I] (R165, R166, R167, R168). -/
def execLdVxMem (x : Nibble) (s : State) : Result :=
  if s.blockOut x.toNat then .next (s.raise .memRange (.ldVxMem x))
  else .next ((s.setVs (s.readBytes (blockStride s.cfg) s.i.toNat x.toNat)).bumpI x)

end Sys2Proof.Machine
end

