-- ==== Sys2Proof/Machine/Input.lean ====
section
/-! DEFINITION. The timer instructions, the key skips and the key wait (45_timers_input.md). -/

namespace Sys2Proof.Machine

/-- Fx07 LD Vx, DT (R201). -/
def execLdVxDt (x : Reg) (s : State) : Result := .next (s.setV x s.dt)

/-- Fx15 LD DT, Vx (R202). -/
def execLdDtVx (x : Reg) (s : State) : Result := .next (s.setDt (s.getV x))

/-- Fx18 LD ST, Vx (R203). -/
def execLdStVx (x : Reg) (s : State) : Result := .next (s.setSt (s.getV x))

/-- Ex9E SKP Vx (R205, R207). -/
def execSkp (x : Reg) (s : State) : Result :=
  match keyIndex (s.getV x) with
  | none => .next (s.raise .keyRange (.skp x))
  | some k => .next (s.skipIf (s.pressed k))

/-- ExA1 SKNP Vx (R206, R207). -/
def execSknp (x : Reg) (s : State) : Result :=
  match keyIndex (s.getV x) with
  | none => .next (s.raise .keyRange (.sknp x))
  | some k => .next (s.skipIf (!s.pressed k))

/-- The lowest pressed key into V[x], or the wait begun where no key is pressed (R208, R209). -/
def State.awaitKey (s : State) (x : Reg) : State :=
  match s.lowestPressed with
  | some k => s.setV x (byteOfReg k)
  | none => s.startWait x

/-- Fx0A LD Vx, K (R208): PC keeps the fetch increment in both branches (90_conflicts.md C1). -/
def execLdVxK (x : Reg) (s : State) : Result := .next (s.awaitKey x)

end Sys2Proof.Machine
end

