-- ==== Sys2Proof/Machine/Cycle.lean ====
section
/-! DEFINITION. The cycle and its phases (40_cycle_and_decode.md R100 to R107, 45_timers_input.md R200, R204, R210), and
the environment's inputs (10_state.md R36). -/

namespace Sys2Proof.Machine

/-- A timer's count after one tick (R200). -/
def countDown (b : Byte) : Byte := if b ≠ 0#8 then b - 1#8 else b

/-- Phase 1: both timers count down (R200). -/
def State.timerPhase (s : State) : State := (s.setDt (countDown s.dt)).setSt (countDown s.st)

/-- Phase 2: the latch is replaced by the snapshot (R204). The random byte is sampled with it (10_state.md R43), and
the diagnostic outputs of the cycle before end (R41). -/
def State.samplePhase (s : State) (keys : BitVec 16) (rand : Byte) : State :=
  { s with key := keys, rand := rand, diag := none }

/-- The phases every cycle of a machine that is not frozen begins with (R100; log 22). -/
def State.startCycle (s : State) (keys : BitVec 16) (rand : Byte) : State :=
  s.timerPhase.samplePhase keys rand

/-- The wake-up phase of a cycle that began waiting (R210): no instruction runs in it. -/
def State.wake (s : State) : State :=
  match s.lowestPressed with
  | some k => (s.setV s.waitX (byteOfReg k)).endWait
  | none => s

/-- The fetch goes beyond the memory (20_memory.md R57; log 13). -/
def State.fetchOut (s : State) : Bool := decide (s.pc.toNat > 0xFFE)

/-- The word a fetch reads (R102). -/
def State.fetchWord (s : State) : Word := s.readWord s.pc.toNat

/-- Fault entry of a fetch beyond the memory: nothing is read and FAULT_WORD is 0x0000 (R57, 60_exceptions.md R231). -/
def State.fetchFault (s : State) : State := s.enterFault .fetchRange s.pc 0x0000#16

/-- An unknown word is a no-op with a diagnostic event (R106, 60_exceptions.md R236); `pc0` is its address. -/
def State.emitDiag (s : State) (w pc0 : Word) : State := s.setDiag (some ⟨w, pc0⟩)

/-- A tick of the frozen machine changes nothing and emits nothing (R101). -/
def State.frozenTick (s : State) : State := s.setDiag none

/-- `perform(decode(w), w, pc0, rand)` after the fetch increment (R103, R106). -/
def perform (w pc0 : Word) (s : State) : Result :=
  match decode w with
  | .instr i => exec i s
  | .unknown w' => .next (s.emitDiag w' pc0)

/-- `execute_one` (R102): the fetch check, the fetch, the increment, then the instruction. -/
def executeOne (s : State) : Result :=
  if s.fetchOut then .next s.fetchFault else perform s.fetchWord s.pc s.advance

/-- `cycle(keys, rand)` (R100): whether the machine waits is read before the refresh. -/
def cycle (keys : BitVec 16) (rand : Byte) (s : State) : Result :=
  if s.faulted then .next s.frozenTick
  else if s.waiting then .next (s.startCycle keys rand).wake
  else executeOne (s.startCycle keys rand)

/-- The input of the next cycle: the oldest one the environment has fixed, else free values (10_state.md R36; log 1). -/
def State.nextInput (s : State) : CycleInput :=
  match s.inputs with
  | c :: _ => c
  | [] => ⟨Config.freeKeys s.tick, Config.freeRand s.tick⟩

/-- The environment after the next input has been taken. -/
def State.takeInput (s : State) : State := { s with inputs := s.inputs.tail, tick := s.tick + 1 }

/-- A machine whose next tick fetches: not frozen, not waiting, its PC inside the memory. Used to place a word for the
next fetch (log 20). -/
def State.ready (s : State) : State :=
  { s with
    pc := if s.fetchOut then 0x0200#16 else s.pc
    waiting := false
    faulted := false
    faultCode := .none
    faultPc := 0x0000#16
    faultWord := 0x0000#16 }

/-- A word stored where the next fetch reads, high byte first (R53). -/
def State.placeWord (s : State) (w : Word) : State := s.writeBytes 1 s.pc.toNat (bytesOfWord w)

end Sys2Proof.Machine
end

