-- ==== Sys2Proof/Machine/Step.lean ====
section
/-! DEFINITION. One tick of the machine (40_cycle_and_decode.md R100), and where a word is placed for the next fetch. -/

namespace Sys2Proof.Machine

/-- One tick, with the environment's next input. A frozen machine takes none (log 2). -/
def step (s : State) : Host.Outcome State Fault Refusal :=
  if s.faulted then .next s.frozenTick else cycle s.nextInput.keys s.nextInput.rand s.takeInput

/-- The state with the word `w` (its low `nbits` bits given, the others 0) where `step` fetches its next instruction. -/
def State.withFetchWord (s : State) (nbits w : Nat) : State :=
  s.ready.placeWord (BitVec.ofNat 16 (w % 2 ^ nbits))

end Sys2Proof.Machine
end

