-- ==== Sys2Proof/Safety.lean ====
section
/-! DEFINITION. What counts as a safe run, and the terms claims are made in: the parts of the machine and what it means
that only some of them change, the conditions under which an instruction faults, the states of the halt-control FSM,
the end of a run, and the invariant every step keeps. -/

namespace Sys2Proof.Safety

open Sys2Proof.Machine

/-! ### Parts of the machine -/

/-- A part of the machine's state: one register, one stack slot, one byte of memory, one cell of the screen, and so on.
`fault` is the whole fault record (10_state.md R40). -/
inductive Part where
  | v (x : Reg)
  | i
  | pc
  | sp
  | slot (j : Fin 16)
  | dt
  | st
  | waiting
  | waitX
  | mem (a : Nat)
  | cell (c : Fin 64) (r : Fin 32)
  | key (k : Reg)
  | fault
  | cfg
  | inputs
  | tick
  | rand
  | diag
  deriving DecidableEq, Repr

/-- The part is the same in both states; memory is compared through the read of a byte, the screen through the read of
a cell. -/
def Part.agree (s t : State) : Part → Prop
  | .v x => t.getV x = s.getV x
  | .i => t.i = s.i
  | .pc => t.pc = s.pc
  | .sp => t.sp = s.sp
  | .slot j => t.stack[j] = s.stack[j]
  | .dt => t.dt = s.dt
  | .st => t.st = s.st
  | .waiting => t.waiting = s.waiting
  | .waitX => t.waitX = s.waitX
  | .mem a => t.readByte a = s.readByte a
  | .cell c r => t.cell c.val r.val = s.cell c.val r.val
  | .key k => t.pressed k = s.pressed k
  | .fault => t.faulted = s.faulted ∧ t.faultCode = s.faultCode ∧ t.faultPc = s.faultPc ∧ t.faultWord = s.faultWord
  | .cfg => t.cfg = s.cfg
  | .inputs => t.inputs = s.inputs
  | .tick => t.tick = s.tick
  | .rand => t.rand = s.rand
  | .diag => t.diag = s.diag

/-- From `s` to `t` nothing changes but the parts of which `touched` holds. -/
def ChangesOnly (touched : Part → Prop) (s t : State) : Prop := ∀ p : Part, ¬ touched p → p.agree s t

/-! ### Faults -/

/-- The fault entry of the instruction `i` from the state after its fetch: the record of 60_exceptions.md R231, PC back
at the instruction's address, and nothing else changed (R232). -/
def FaultTaken (code : FaultCode) (i : Instr) (s t : State) : Prop :=
  t.faulted = true ∧ t.faultCode = code ∧ t.faultPc = s.pc - 2#16 ∧ t.faultWord = encode i ∧ t.pc = s.pc - 2#16 ∧
    ChangesOnly (fun p => p = .pc ∨ p = .fault) s t

/-- The address `addr(base, i)` of 43_index_memory.md R168, as its three cases say. -/
def transferAddr (c : Config) (base i : Nat) : Nat :=
  if c.legacyMode = true ∧ c.legacyBlockAddr = .running then base + 2 * i else base + i

/-- The fault condition of an instruction, if it has one (60_exceptions.md R230, R231). -/
def faultCase (i : Instr) (s : State) : Option (FaultCode × Prop) :=
  match i with
  | .call _ => some (.stackOverflow, s.sp = 15#4)
  | .ret => some (.stackUnderflow, s.sp = 0#4)
  | .drw _ _ n => some (.memRange, 0 < n.toNat ∧ s.i.toNat + n.toNat - 1 > 0xFFF)
  | .ldB _ => some (.memRange, s.i.toNat + 2 > 0xFFF)
  | .ldMemVx n | .ldVxMem n =>
    some (.memRange, 0 < n.toNat ∧ transferAddr s.cfg s.i.toNat (n.toNat - 1) > 0xFFF)
  | .skp x | .sknp x => some (.keyRange, (s.getV x).toNat > 0xF)
  | .nop | .cls | .jp _ | .seImm _ _ | .sneImm _ _ | .seReg _ _ | .ldImm _ _ | .addImm _ _ | .ldReg _ _
  | .orReg _ _ | .andReg _ _ | .xorReg _ _ | .addReg _ _ | .subReg _ _ | .shr _ _ | .subn _ _ | .shl _ _
  | .sneReg _ _ | .ldI _ | .jpV0 _ | .rnd _ _ | .ldVxDt _ | .ldVxK _ | .ldDtVx _ | .ldStVx _ | .addI _
  | .ldF _ => none

/-- The fault the instruction meets in the state, with its code (R230). -/
def Faults (i : Instr) (s : State) (code : FaultCode) : Prop :=
  ∃ cond, faultCase i s = some (code, cond) ∧ cond

/-- The word at PC, as two bytes read from memory, the first one high (20_memory.md R53). -/
def wordAtPc (s : State) : Word :=
  BitVec.ofNat 16 ((s.readByte s.pc.toNat).toNat * 256 + (s.readByte (s.pc.toNat + 1)).toNat)

/-- The state after the timer and refresh phases of a cycle (40_cycle_and_decode.md R100): each timer one less, clamped
at 0, the latch replaced by the snapshot, the random byte sampled, the diagnostic outputs ended. -/
def afterPhases (keys : BitVec 16) (rand : Byte) (s : State) : State :=
  { s with
    dt := BitVec.ofNat 8 (s.dt.toNat - 1)
    st := BitVec.ofNat 8 (s.st.toNat - 1)
    key := keys
    rand := rand
    diag := none }

/-- The state an instruction executes on (R100, R102): after the phases and the fetch increment. -/
def afterFetch (keys : BitVec 16) (rand : Byte) (s : State) : State :=
  { afterPhases keys rand s with pc := s.pc + 2#16 }

/-- The parts the timer and refresh phases touch. -/
def phaseParts : Part → Prop
  | .dt | .st | .key _ | .rand | .diag => True
  | .v _ | .i | .pc | .sp | .slot _ | .waiting | .waitX | .mem _ | .cell _ _ | .fault | .cfg | .inputs | .tick => False

/-- The cycle meets a fault (R230): its fetch goes beyond the memory, or the instruction it fetches faults. A machine
that waits fetches nothing. -/
def CycleFaults (s : State) : Prop :=
  s.waiting = false ∧
    (s.pc.toNat > 0xFFE ∨ ∃ i code, decode (wordAtPc s) = .instr i ∧ Faults i s code)

/-! ### The halt-control FSM (45_timers_input.md R211) -/

/-- RUN: neither waiting nor frozen. -/
def Running (s : State) : Prop := s.waiting = false ∧ s.faulted = false

/-- WAIT: waiting for a key. -/
def Waiting (s : State) : Prop := s.waiting = true ∧ s.faulted = false

/-- FROZEN: after a fault. -/
def Frozen (s : State) : Prop := s.faulted = true

/-- `k` is the lowest pressed key of the snapshot (R208, R210). -/
def LowestKey (keys : BitVec 16) (k : Reg) : Prop :=
  keys.getLsbD k.val = true ∧ ∀ j : Reg, j < k → keys.getLsbD j.val = false

/-- No key of the snapshot is pressed. -/
def NoKey (keys : BitVec 16) : Prop := ∀ k : Reg, keys.getLsbD k.val = false

/-! ### Registers each instruction reads and writes (10_state.md R22) -/

/-- The registers an instruction's row of R22 names in "reads", and VF for Fx1E, whose old value may stay (R161). -/
def regReads (c : Config) : Instr → Reg → Prop
  | .seImm x _, r | .sneImm x _, r | .addImm x _, r | .skp x, r | .sknp x, r
  | .ldDtVx x, r | .ldStVx x, r | .ldF x, r | .ldB x, r => r = x
  | .addI x, r => r = x ∨ r = VF
  | .seReg x y, r | .sneReg x y, r | .orReg x y, r | .andReg x y, r | .xorReg x y, r
  | .addReg x y, r | .subReg x y, r | .subn x y, r | .drw x y _, r => r = x ∨ r = y
  | .ldReg _ y, r => r = y
  | .shr x y, r | .shl x y, r => r = x ∨ (c.legacyMode = true ∧ r = y)
  | .jpV0 nnn, r => if c.legacyMode then r = 0 else r = topNibble nnn
  | .ldMemVx n, r => r.val < n.toNat
  | .nop, _ | .cls, _ | .ret, _ | .jp _, _ | .call _, _ | .ldImm _ _, _ | .ldI _, _ | .rnd _ _, _
  | .ldVxDt _, _ | .ldVxK _, _ | .ldVxMem _, _ => False

/-- The registers an instruction's row of R22 names in "writes". -/
def regWrites : Instr → Reg → Prop
  | .ldImm x _, r | .addImm x _, r | .ldReg x _, r | .orReg x _, r | .andReg x _, r | .xorReg x _, r
  | .rnd x _, r | .ldVxDt x, r | .ldVxK x, r => r = x
  | .addReg x _, r | .subReg x _, r | .subn x _, r | .shr x _, r | .shl x _, r => r = x ∨ r = VF
  | .drw _ _ _, r | .addI _, r => r = VF
  | .ldVxMem n, r => r.val < n.toNat
  | .nop, _ | .cls, _ | .ret, _ | .jp _, _ | .call _, _ | .seImm _ _, _ | .sneImm _ _, _ | .seReg _ _, _
  | .sneReg _ _, _ | .ldI _, _ | .jpV0 _, _ | .skp _, _ | .sknp _, _ | .ldDtVx _, _ | .ldStVx _, _
  | .ldF _, _ | .ldB _, _ | .ldMemVx _, _ => False

/-- The instruction may write PC in its execute phase: a skip, a jump, a call or a return (10_state.md R25), or one
that can fault, whose entry takes the fetch increment back (60_exceptions.md R232). -/
def writesPc : Instr → Prop
  | .seImm _ _ | .sneImm _ _ | .seReg _ _ | .sneReg _ _ | .skp _ | .sknp _ | .jp _ | .call _ | .jpV0 _ | .ret
  | .drw _ _ _ | .ldB _ | .ldMemVx _ | .ldVxMem _ => True
  | .nop | .cls | .ldImm _ _ | .addImm _ _ | .ldReg _ _ | .orReg _ _ | .andReg _ _ | .xorReg _ _ | .addReg _ _
  | .subReg _ _ | .shr _ _ | .subn _ _ | .shl _ _ | .ldI _ | .rnd _ _ | .ldVxDt _ | .ldVxK _ | .ldDtVx _
  | .ldStVx _ | .addI _ | .ldF _ => False

/-- The parts an instruction may change, from the rules that say who writes what: V (R22), I (R23), PC (R25), the stack
(R26, R27), the timers (R28), the wait (R29, R30), memory (20_memory.md R50), the screen (R34), the fault record (R40).
No instruction writes the latch (R35), the configuration (R31), the inputs or the diagnostic outputs. -/
def mayChange (i : Instr) (s : State) : Part → Prop
  | .v r => regWrites i r
  | .i => (∃ nnn, i = .ldI nnn) ∨ (∃ x, i = .addI x) ∨ (∃ x, i = .ldF x) ∨
      (s.cfg.legacyMode = true ∧ ((∃ n, i = .ldMemVx n) ∨ ∃ n, i = .ldVxMem n))
  | .pc => writesPc i
  | .sp => i = .ret ∨ ∃ nnn, i = .call nnn
  | .slot j => (∃ nnn, i = .call nnn) ∧ j.val = s.sp.toNat + 1
  | .dt => ∃ x, i = .ldDtVx x
  | .st => ∃ x, i = .ldStVx x
  | .waiting | .waitX => ∃ x, i = .ldVxK x
  | .mem a => (∃ x, i = .ldB x ∧ s.i.toNat ≤ a ∧ a < s.i.toNat + 3) ∨
      ∃ n : Nibble, i = .ldMemVx n ∧ ∃ k, k < n.toNat ∧ a = transferAddr s.cfg s.i.toNat k
  | .cell _ _ => i = .cls ∨ ∃ x y n, i = .drw x y n
  | .fault => ∃ code, Faults i s code
  | .key _ | .cfg | .inputs | .tick | .rand | .diag => False

/-! ### Drawing (44_display.md) -/

/-- The sprite of `n` bytes at `I`, drawn at (V[x], V[y]), has a 1 bit on the cell (R180, R184): some row j and position
k land on it and bit 7 - k of byte j is 1. -/
def SpriteOn (s : State) (x y : Reg) (n : Nat) (c : Fin 64) (r : Fin 32) : Prop :=
  ∃ j k : Nat, j < n ∧ k < 8 ∧ c.val = ((s.getV x).toNat + k) % 64 ∧ r.val = ((s.getV y).toNat + j) % 32 ∧
    (s.readByte (s.i.toNat + j)).getLsbD (7 - k) = true

/-- The row `b` drawn at (px, py) has a 1 bit on the cell (R180). -/
def RowOn (px py : Nat) (b : Byte) (c : Fin 64) (r : Fin 32) : Prop :=
  r.val = py % 32 ∧ ∃ k : Nat, k < 8 ∧ c.val = (px + k) % 64 ∧ b.getLsbD (7 - k) = true

/-! ### Safe runs -/

/-- A run is safe as long as it has met no fault: a frozen state is never a successful end (60_exceptions.md R233). -/
def Safe (s : State) : Prop := s.faulted = false

/-- The end of a run (70_reset_and_hazards.md R260): PC holds the address of a self-jump, and the machine is neither
frozen nor waiting. -/
def Finished (s : State) : Prop :=
  s.pc.toNat ≤ 0xFFE ∧ decode (wordAtPc s) = .instr (.jp (BitVec.ofNat 12 s.pc.toNat)) ∧ Running s

/-- The memory is in canonical form. -/
def MemOk (s : State) : Prop := Memory.wf s.unlisted s.mem = true

/-- What every step keeps. -/
structure Inv (s : State) : Prop where
  /-- the memory is in canonical form -/
  memOk : MemOk s
  /-- the FSM is in one of its three states: WAITING and FAULTED are never both set (45_timers_input.md R211) -/
  oneState : s.waiting = true → s.faulted = false
  /-- FAULT_CODE is 0 exactly while FAULTED is 0 (60_exceptions.md R231) -/
  codeIff : s.faultCode = .none ↔ s.faulted = false
  /-- the record is clear before a fault (10_state.md R40) -/
  recordClear : s.faulted = false → s.faultPc = 0#16 ∧ s.faultWord = 0#16
  /-- a frozen machine's PC is the faulting instruction's address, and it emits nothing (R232, 40_cycle_and_decode.md R101) -/
  frozenPc : s.faulted = true → s.pc = s.faultPc ∧ s.diag = none
  /-- PC never passes 0x10FE, so that its wrap is never reached (92_eei_decisions.md D4) -/
  pcBound : s.pc.toNat ≤ 0x10FE
  /-- a return address is at most 0x1000 -/
  slotBound : ∀ j : Fin 16, (s.stack[j]).toNat ≤ 0x1000

end Sys2Proof.Safety
end

