-- ==== Sys2Proof/Certificates/Slice0/Obligations.lean ====
section
/-! DEFINITION. The statements for the provers. `cycle keys rand s` is the spec's cycle for any key snapshot and any
random byte (00_scope.md R10, 10_state.md R36, R43); `step` draws the two from the environment. A meaning runs on the
state after the fetch, so that its PC is the instruction's address plus 2 (10_state.md R24). -/

open Sys2Proof Sys2Proof.Machine Sys2Proof.Safety

/-! ### Encoding (00_scope.md R16, 30_encoding.md) -/

/-- R103, R75: decoding the word of an instruction gives that instruction, on a word and on a list of bytes, for every
instruction and every value of its operands. -/
def Obligations.DecodeOfEncodeIsTheInstruction : Prop :=
  ∀ (i : Instr) (rest : List Byte),
    decode (encode i) = .instr i ∧ decodeBytes (bytesOfWord (encode i) ++ rest) = .instr i rest

/-- R75: every word decodes to one instruction, whose word it is, or is unknown as itself: no bit of a word is dropped. -/
def Obligations.EncodeOfDecodeIsTheWord : Prop :=
  ∀ w : Word, (∃ i, decode w = .instr i ∧ encode i = w ∧ ∀ j, encode j = w → j = i) ∨
    (decode w = .unknown w ∧ ∀ j, encode j ≠ w)

/-- R78: a word decodes to an instruction exactly when it matches a row of the opcode table, `(w & mask) == match`, the
row it matches is that instruction's, and no other row matches it. -/
def Obligations.DecodeFollowsTheOpcodeTable : Prop :=
  ∀ w : Word,
    (∀ i, decode w = .instr i → i.row.covers w = true ∧ ∀ r ∈ opcodeTable, r.covers w = true → r = i.row) ∧
    ((∃ r ∈ opcodeTable, r.covers w = true) ↔ ∃ i, decode w = .instr i)

/-- R77: the unknown words, group by group, and that executing one is a diagnostic no-op and never a fault. -/
def Obligations.UnknownWordsAreTheListedGroups : Prop :=
  (∀ w : Word, decode w = .unknown w ↔
    (w.toNat / 4096 = 0x0 ∧ w ≠ 0x0000#16 ∧ w ≠ 0x00E0#16 ∧ w ≠ 0x00EE#16) ∨
    (w.toNat / 4096 = 0x5 ∧ w.toNat % 16 ≠ 0) ∨
    (w.toNat / 4096 = 0x8 ∧ w.toNat % 16 ∈ [0x8, 0x9, 0xA, 0xB, 0xC, 0xD, 0xF]) ∨
    (w.toNat / 4096 = 0x9 ∧ w.toNat % 16 ≠ 0) ∨
    (w.toNat / 4096 = 0xE ∧ w.toNat % 256 ∉ [0x9E, 0xA1]) ∨
    (w.toNat / 4096 = 0xF ∧ w.toNat % 256 ∉ [0x07, 0x0A, 0x15, 0x18, 0x1E, 0x29, 0x33, 0x55, 0x65])) ∧
  ∀ (w pc0 : Word) (s : State), decode w = .unknown w →
    ∃ t, perform w pc0 s = .next t ∧ t.diag = some ⟨w, pc0⟩ ∧ ChangesOnly (fun p => p = .diag) s t

/-- R16: the five fields of a word. -/
def Obligations.FieldsAreExtractedUniformly : Prop :=
  ∀ w : Word,
    (fieldNnn w).toNat = w.toNat % 4096 ∧ (fieldN w).toNat = w.toNat % 16 ∧ (fieldX w).val = w.toNat / 256 % 16 ∧
    (fieldY w).val = w.toNat / 16 % 16 ∧ (fieldNn w).toNat = w.toNat % 256

/-- R78, sanity: words written out from the table's rows decode to their instructions, one of each format. -/
def Obligations.ListedWordsDecode : Prop :=
  decode 0x0000#16 = .instr .nop ∧ decode 0x00E0#16 = .instr .cls ∧ decode 0x00EE#16 = .instr .ret ∧
  decode 0x1ABC#16 = .instr (.jp 0xABC#12) ∧ decode 0x2300#16 = .instr (.call 0x300#12) ∧
  decode 0x6A3C#16 = .instr (.ldImm 0xA 0x3C#8) ∧ decode 0x8126#16 = .instr (.shr 1 2) ∧
  decode 0xD125#16 = .instr (.drw 1 2 5#4) ∧ decode 0xF355#16 = .instr (.ldMemVx 3#4) ∧
  decode 0xE39E#16 = .instr (.skp 3) ∧ decode 0x8128#16 = .unknown 0x8128#16

/-- R80, R81 (the spec's own syntax): lines with operands in range and instructions correspond one to one; a line is
assembled to the bytes of its instruction, high byte first; any other line is refused; DW emits a word high byte first,
DB emits a byte. -/
def Obligations.AssemblerLinesAreTheInstructions : Prop :=
  (∀ i : Instr, i.line.wellFormed = true ∧ i.line.item = .instr i) ∧
  (∀ (l : AsmLine) (i : Instr), l.wellFormed = true → l.item = .instr i → i.line = l) ∧
  (∀ l : AsmLine, l.wellFormed = false → l.assemble = none) ∧
  (∀ (l : AsmLine) (i : Instr), l.wellFormed = true → l.item = .instr i →
    ∃ hi lo, l.assemble = some [hi, lo] ∧ decode (wordOfBytes hi lo) = .instr i) ∧
  (∀ v : Nat, v ≤ 0xFFFF → ∃ hi lo : Byte, (AsmLine.dw v).assemble = some [hi, lo] ∧ hi.toNat * 256 + lo.toNat = v) ∧
  (∀ v : Nat, v ≤ 0xFF → ∃ b : Byte, (AsmLine.db v).assemble = some [b] ∧ b.toNat = v)

/-! ### Memory, reset and load (20_memory.md, 10_state.md R39, 70_reset_and_hazards.md) -/

/-- R59: a read returns the value of the most recent write to its address, and a write changes no other byte, nor
anything else; a byte never written reads as its reset value. -/
def Obligations.ReadReturnsTheMostRecentWrite : Prop :=
  (∀ (s : State) (a : Nat) (x : Byte), MemOk s → a ≤ 0xFFF →
    (s.writeByte a x).readByte a = x ∧ ChangesOnly (fun p => p = .mem a) s (s.writeByte a x) ∧
    MemOk (s.writeByte a x)) ∧
  (∀ (s : State) (a : Nat), s.mem = [] → s.readByte a = (State.resetWith s.cfg).readByte a)

/-- R39: the state after reset, for every configuration. -/
def Obligations.ResetStateIsTheListedState : Prop :=
  ∀ c : Config,
    (∀ x, (State.resetWith c).getV x = 0x00#8) ∧ (State.resetWith c).i = 0x0000#16 ∧
    (State.resetWith c).pc = 0x0200#16 ∧ (State.resetWith c).sp = 0#4 ∧
    (∀ j : Fin 16, (State.resetWith c).stack[j] = 0x0000#16) ∧
    (State.resetWith c).dt = 0#8 ∧ (State.resetWith c).st = 0#8 ∧
    (∀ (d : Fin 16) (k : Fin 5), (State.resetWith c).readByte (5 * d.val + k.val) = c.fontRom[d][k]) ∧
    (∀ a : Nat, 0x050 ≤ a → a ≤ 0xFFF → (State.resetWith c).readByte a = 0x00#8) ∧
    (∀ (x : Fin 64) (y : Fin 32), (State.resetWith c).cell x.val y.val = false) ∧
    (∀ k, (State.resetWith c).pressed k = false) ∧
    (State.resetWith c).waiting = false ∧ (State.resetWith c).waitX = 0 ∧
    (State.resetWith c).faulted = false ∧ (State.resetWith c).faultCode.bits = 0#3 ∧
    (State.resetWith c).faultPc = 0x0000#16 ∧ (State.resetWith c).faultWord = 0x0000#16 ∧
    (State.resetWith c).cfg = c

/-- R253, R254: an image of at most 0xE00 bytes is copied to 0x200 and on and nothing else changes, and the load port's
writes, one byte after the other, do the same; a longer image is refused. -/
def Obligations.ProgramLoadCopiesOrRefuses : Prop :=
  ∀ (s : State) (img : List Byte), MemOk s →
    (img.length ≤ 0xE00 →
      ∃ t, s.load img = some t ∧ (∀ (k : Nat) (h : k < img.length), t.readByte (0x200 + k) = img[k]) ∧
        t = (img.zipIdx 0x200).foldl (fun u p => u.loadPort (BitVec.ofNat 12 p.2) p.1) s ∧
        ChangesOnly (fun p => ∃ k, k < img.length ∧ p = .mem (0x200 + k)) s t ∧ MemOk t) ∧
    (0xE00 < img.length → s.load img = none)

/-- R251, R233: `rst` puts the block in the reset state of its parameters with the sampled legacy strap, and no tick of a
frozen machine leaves the frozen state or changes anything. That reset is not an input of the step (log 19), and that a
frozen step takes no input (log 2), are the model's choices. -/
def Obligations.ResetIsTheOnlyWayOutOfAFault : Prop :=
  (∀ (s : State) (strap : Bool),
    ChangesOnly (fun p => p = .inputs ∨ p = .tick) (State.resetWith { s.cfg with legacyMode := strap }) (s.rst strap)) ∧
  (∀ (s : State) (keys : BitVec 16) (rand : Byte), Frozen s → ∃ t, cycle keys rand s = .next t ∧ Frozen t) ∧
  (∀ s : State, Frozen s →
    ∃ t, step s = .next t ∧ Frozen t ∧ t.diag = none ∧ ChangesOnly (fun p => p = .diag) s t)

/-! ### The cycle (40_cycle_and_decode.md) -/

/-- R100, R102, R103, R53: a cycle of a running machine executes, after the timer and refresh phases and the fetch
increment, the instruction that the two bytes at PC decode to, high byte first. -/
def Obligations.CycleExecutesTheInstructionAtPc : Prop :=
  ∀ (keys : BitVec 16) (rand : Byte) (s : State) (i : Instr),
    Running s → s.pc.toNat ≤ 0xFFE → decode (wordAtPc s) = .instr i →
    cycle keys rand s = exec i (afterFetch keys rand s)

/-- A step is that cycle with the environment's next input: the oldest one it has fixed, or free values (log 1, the
model's choice of how the inputs come). -/
def Obligations.StepRunsTheDecodedInstruction : Prop :=
  ∀ (s : State) (i : Instr), Running s → s.pc.toNat ≤ 0xFFE → decode (wordAtPc s) = .instr i →
    (∀ c rest, s.inputs = c :: rest →
      step s = exec i (afterFetch c.keys c.rand { s with inputs := rest, tick := s.tick + 1 })) ∧
    (s.inputs = [] →
      step s = exec i (afterFetch (Config.freeKeys s.tick) (Config.freeRand s.tick) { s with tick := s.tick + 1 }))

/-- R106, R237: an unknown word is a no-op that drives the diagnostic outputs and never sets FAULTED. -/
def Obligations.UnknownWordIsADiagnosticNoOp : Prop :=
  ∀ (keys : BitVec 16) (rand : Byte) (s : State) (w : Word),
    Running s → s.pc.toNat ≤ 0xFFE → wordAtPc s = w → decode w = .unknown w →
    ∃ t, cycle keys rand s = .next t ∧ t.diag = some ⟨w, s.pc⟩ ∧ t.diagValid = true ∧ t.pc = s.pc + 2#16 ∧
      t.faulted = false ∧ ChangesOnly (fun p => p = .pc ∨ phaseParts p) s t

/-- R236: a cycle drives diag_valid exactly when it executes an unknown word. -/
def Obligations.OnlyUnknownWordsEmitDiagnostics : Prop :=
  ∀ (keys : BitVec 16) (rand : Byte) (s : State), ∃ t, cycle keys rand s = .next t ∧
    (t.diagValid = true ↔
      Running s ∧ s.pc.toNat ≤ 0xFFE ∧ decode (wordAtPc s) = .unknown (wordAtPc s))

/-- R57: a fetch with PC above 0xFFE reads nothing and raises FETCH_RANGE, with FAULT_PC = PC and FAULT_WORD = 0. -/
def Obligations.FetchBeyondMemoryFaults : Prop :=
  ∀ (keys : BitVec 16) (rand : Byte) (s : State), Running s → 0xFFE < s.pc.toNat →
    ∃ t, cycle keys rand s = .next t ∧ t.faulted = true ∧ t.faultCode = .fetchRange ∧ t.faultPc = s.pc ∧
      t.faultWord = 0x0000#16 ∧ ChangesOnly (fun p => p = .fault ∨ phaseParts p) s t

/-- R101: a tick of a frozen machine changes nothing and emits no diagnostic event, whatever the inputs are; the machine
stays frozen. -/
def Obligations.FrozenMachineIgnoresTicks : Prop :=
  ∀ (keys : BitVec 16) (rand : Byte) (s : State), Frozen s →
    (∃ t, cycle keys rand s = .next t ∧ t.diag = none ∧ Frozen t ∧ ChangesOnly (fun p => p = .diag) s t) ∧
    (s.diag = none → cycle keys rand s = .next s)

/-- R200: in every cycle of a machine that is not frozen, waiting or not, both timers count down once: after the cycle a
timer holds one less, clamped at 0, or what the cycle's own Fx15 or Fx18 wrote; and before the instruction: an Fx07 reads
the count of its own cycle. -/
def Obligations.TimersCountDownEveryTick : Prop :=
  ∀ (keys : BitVec 16) (rand : Byte) (s : State), s.faulted = false →
    ∃ t, cycle keys rand s = .next t ∧
      (t.dt.toNat = s.dt.toNat - 1 ∨
        Running s ∧ s.pc.toNat ≤ 0xFFE ∧ ∃ x, decode (wordAtPc s) = .instr (.ldDtVx x) ∧ t.dt = s.getV x) ∧
      (t.st.toNat = s.st.toNat - 1 ∨
        Running s ∧ s.pc.toNat ≤ 0xFFE ∧ ∃ x, decode (wordAtPc s) = .instr (.ldStVx x) ∧ t.st = s.getV x) ∧
      (Running s → s.pc.toNat ≤ 0xFFE → ∀ x, decode (wordAtPc s) = .instr (.ldVxDt x) →
        (t.getV x).toNat = s.dt.toNat - 1)

/-- R204: after a cycle of a machine that is not frozen the latch is the cycle's snapshot, key by key: it is replaced
wholesale; and before the instruction: an Ex9E reads the snapshot of its own cycle. -/
def Obligations.LatchIsTheSnapshotOfTheCycle : Prop :=
  ∀ (keys : BitVec 16) (rand : Byte) (s : State), s.faulted = false →
    ∃ t, cycle keys rand s = .next t ∧ (∀ k : Reg, t.pressed k = keys.getLsbD k.val) ∧
      (Running s → s.pc.toNat ≤ 0xFFE → ∀ x k : Reg, decode (wordAtPc s) = .instr (.skp x) →
        (s.getV x).toNat = k.val → t.pc = if keys.getLsbD k.val = true then s.pc + 4#16 else s.pc + 2#16)

/-! ### Control transfer (41_control_flow.md) -/

/-- R105: NOP changes nothing; PC keeps the fetch increment. -/
def Obligations.NopChangesNothing : Prop :=
  (encode .nop).toNat = 0x0000 ∧ ∀ s : State, ∃ t, exec .nop s = .next t ∧ ChangesOnly (fun _ => False) s t

/-- R120: RET pops the slot SP names into PC, or faults on the empty stack. -/
def Obligations.RetPopsOrUnderflows : Prop :=
  (encode .ret).toNat = 0x00EE ∧
  (∀ (s : State) (j : Fin 16), s.sp.toNat = j.val → j ≠ 0 →
    ∃ t, exec .ret s = .next t ∧ t.pc = s.stack[j] ∧ t.sp.toNat = j.val - 1 ∧
      ChangesOnly (fun p => p = .pc ∨ p = .sp) s t) ∧
  (∀ s : State, s.sp = 0#4 → ∃ t, exec .ret s = .next t ∧ FaultTaken .stackUnderflow .ret s t)

/-- R121: JP puts nnn into PC. -/
def Obligations.JpSetsPc : Prop :=
  ∀ (nnn : Addr12) (s : State), (encode (.jp nnn)).toNat = 0x1000 + nnn.toNat ∧
    ∃ t, exec (.jp nnn) s = .next t ∧ t.pc.toNat = nnn.toNat ∧ ChangesOnly (fun p => p = .pc) s t

/-- R122: CALL pushes its own address plus 2 and jumps, or faults at SP = 15. -/
def Obligations.CallPushesOrOverflows : Prop :=
  ∀ (nnn : Addr12) (s : State), (encode (.call nnn)).toNat = 0x2000 + nnn.toNat ∧
    (∀ j : Fin 16, s.sp.toNat + 1 = j.val →
      ∃ t, exec (.call nnn) s = .next t ∧ t.sp.toNat = j.val ∧ t.stack[j] = s.pc ∧ t.pc.toNat = nnn.toNat ∧
        ChangesOnly (fun p => p = .sp ∨ p = .slot j ∨ p = .pc) s t) ∧
    (s.sp = 15#4 → ∃ t, exec (.call nnn) s = .next t ∧ FaultTaken .stackOverflow (.call nnn) s t)

/-- R120, R122 together (the call/return round trip): a return made with SP and the stack as a call left them gives back
the PC the call saw, and SP as before the call. -/
def Obligations.ReturnAfterCallResumes : Prop :=
  ∀ (nnn : Addr12) (s : State), s.sp ≠ 15#4 →
    ∃ t, exec (.call nnn) s = .next t ∧
      ∀ u : State, u.sp = t.sp → u.stack = t.stack → ∃ w, exec .ret u = .next w ∧ w.pc = s.pc ∧ w.sp = s.sp

/-- R123, R124: the immediate skips add 2 to the incremented PC exactly where their condition holds. -/
def Obligations.ImmediateSkips : Prop :=
  ∀ (x : Reg) (nn : Byte) (s : State),
    (encode (.seImm x nn)).toNat = 0x3000 + x.val * 256 + nn.toNat ∧
    (encode (.sneImm x nn)).toNat = 0x4000 + x.val * 256 + nn.toNat ∧
    (∃ t, exec (.seImm x nn) s = .next t ∧
      t.pc.toNat = (if s.getV x = nn then (s.pc.toNat + 2) % 65536 else s.pc.toNat) ∧
      ChangesOnly (fun p => p = .pc) s t) ∧
    (∃ t, exec (.sneImm x nn) s = .next t ∧
      t.pc.toNat = (if s.getV x = nn then s.pc.toNat else (s.pc.toNat + 2) % 65536) ∧
      ChangesOnly (fun p => p = .pc) s t)

/-- R125, R126: the register skips. -/
def Obligations.RegisterSkips : Prop :=
  ∀ (x y : Reg) (s : State),
    (encode (.seReg x y)).toNat = 0x5000 + x.val * 256 + y.val * 16 ∧
    (encode (.sneReg x y)).toNat = 0x9000 + x.val * 256 + y.val * 16 ∧
    (∃ t, exec (.seReg x y) s = .next t ∧
      t.pc.toNat = (if s.getV x = s.getV y then (s.pc.toNat + 2) % 65536 else s.pc.toNat) ∧
      ChangesOnly (fun p => p = .pc) s t) ∧
    (∃ t, exec (.sneReg x y) s = .next t ∧
      t.pc.toNat = (if s.getV x = s.getV y then s.pc.toNat else (s.pc.toNat + 2) % 65536) ∧
      ChangesOnly (fun p => p = .pc) s t)

/-- R127: JP V0 adds V[0] in legacy mode and the register of nnn's top nibble in modern mode, with no reduction. -/
def Obligations.JpV0AddsTheBaseRegister : Prop :=
  ∀ (nnn : Addr12) (s : State), (encode (.jpV0 nnn)).toNat = 0xB000 + nnn.toNat ∧
    ∃ t, exec (.jpV0 nnn) s = .next t ∧
      t.pc.toNat = nnn.toNat +
        (if s.cfg.legacyMode = true then s.getV 0 else s.getV (Fin.ofNat 16 (nnn.toNat / 256))).toNat ∧
      ChangesOnly (fun p => p = .pc) s t

/-! ### Datapath (42_alu.md) -/

/-- R140, R141, R142: load immediate, add immediate with no carry flag, copy register. -/
def Obligations.LoadsAndAddImmediate : Prop :=
  ∀ (x y : Reg) (nn : Byte) (s : State),
    (encode (.ldImm x nn)).toNat = 0x6000 + x.val * 256 + nn.toNat ∧
    (encode (.addImm x nn)).toNat = 0x7000 + x.val * 256 + nn.toNat ∧
    (encode (.ldReg x y)).toNat = 0x8000 + x.val * 256 + y.val * 16 ∧
    (∃ t, exec (.ldImm x nn) s = .next t ∧ t.getV x = nn ∧ ChangesOnly (fun p => p = .v x) s t) ∧
    (∃ t, exec (.addImm x nn) s = .next t ∧ (t.getV x).toNat = ((s.getV x).toNat + nn.toNat) % 256 ∧
      ChangesOnly (fun p => p = .v x) s t) ∧
    (∃ t, exec (.ldReg x y) s = .next t ∧ t.getV x = s.getV y ∧ ChangesOnly (fun p => p = .v x) s t)

/-- R143, R144, R145: the bitwise operations, bit by bit; they do not write VF unless x = F. -/
def Obligations.BitwiseLogic : Prop :=
  ∀ (x y : Reg) (s : State),
    (encode (.orReg x y)).toNat = 0x8001 + x.val * 256 + y.val * 16 ∧
    (encode (.andReg x y)).toNat = 0x8002 + x.val * 256 + y.val * 16 ∧
    (encode (.xorReg x y)).toNat = 0x8003 + x.val * 256 + y.val * 16 ∧
    (∃ t, exec (.orReg x y) s = .next t ∧
      (∀ k, (t.getV x).getLsbD k = ((s.getV x).getLsbD k || (s.getV y).getLsbD k)) ∧
      ChangesOnly (fun p => p = .v x) s t) ∧
    (∃ t, exec (.andReg x y) s = .next t ∧
      (∀ k, (t.getV x).getLsbD k = ((s.getV x).getLsbD k && (s.getV y).getLsbD k)) ∧
      ChangesOnly (fun p => p = .v x) s t) ∧
    (∃ t, exec (.xorReg x y) s = .next t ∧
      (∀ k, (t.getV x).getLsbD k = ((s.getV x).getLsbD k != (s.getV y).getLsbD k)) ∧
      ChangesOnly (fun p => p = .v x) s t)

/-- R146: ADD with the carry out of bit 7 in VF; where x = F the result stays. -/
def Obligations.AddSetsSumAndCarry : Prop :=
  ∀ (x y : Reg) (s : State),
    (encode (.addReg x y)).toNat = 0x8004 + x.val * 256 + y.val * 16 ∧
    ∃ t, exec (.addReg x y) s = .next t ∧
      (t.getV x).toNat = ((s.getV x).toNat + (s.getV y).toNat) % 256 ∧
      (x = VF ∨ t.getV VF = if (s.getV x).toNat + (s.getV y).toNat > 255 then 1#8 else 0#8) ∧
      ChangesOnly (fun p => p = .v x ∨ p = .v VF) s t

/-- R147, R149: SUB and SUBN with VF = no borrow; where x = F the difference stays. -/
def Obligations.SubtractSetsDifferenceAndNoBorrow : Prop :=
  ∀ (x y : Reg) (s : State),
    (encode (.subReg x y)).toNat = 0x8005 + x.val * 256 + y.val * 16 ∧
    (encode (.subn x y)).toNat = 0x8007 + x.val * 256 + y.val * 16 ∧
    (∃ t, exec (.subReg x y) s = .next t ∧
      ((t.getV x).toNat : Int) = (((s.getV x).toNat : Int) - (s.getV y).toNat) % 256 ∧
      (x = VF ∨ t.getV VF = if (s.getV y).toNat ≤ (s.getV x).toNat then 1#8 else 0#8) ∧
      ChangesOnly (fun p => p = .v x ∨ p = .v VF) s t) ∧
    (∃ t, exec (.subn x y) s = .next t ∧
      ((t.getV x).toNat : Int) = (((s.getV y).toNat : Int) - (s.getV x).toNat) % 256 ∧
      (x = VF ∨ t.getV VF = if (s.getV x).toNat ≤ (s.getV y).toNat then 1#8 else 0#8) ∧
      ChangesOnly (fun p => p = .v x ∨ p = .v VF) s t)

/-- R148, R150: SHR and SHL of V[x], or of V[y] in legacy mode, by one, with the bit shifted out in VF; where
x = F the result stays. -/
def Obligations.ShiftsByOne : Prop :=
  ∀ (x y : Reg) (s : State),
    (encode (.shr x y)).toNat = 0x8006 + x.val * 256 + y.val * 16 ∧
    (encode (.shl x y)).toNat = 0x800E + x.val * 256 + y.val * 16 ∧
    ∀ a : Nat, a = (if s.cfg.legacyMode = true then s.getV y else s.getV x).toNat →
      (∃ t, exec (.shr x y) s = .next t ∧ (t.getV x).toNat = a / 2 ∧
        (x = VF ∨ (t.getV VF).toNat = a % 2) ∧ ChangesOnly (fun p => p = .v x ∨ p = .v VF) s t) ∧
      (∃ t, exec (.shl x y) s = .next t ∧ (t.getV x).toNat = 2 * a % 256 ∧
        (x = VF ∨ (t.getV VF).toNat = a / 128) ∧ ChangesOnly (fun p => p = .v x ∨ p = .v VF) s t)

/-- R151: RND puts the cycle's random byte under the mask into V[x], bit by bit, for every random byte. -/
def Obligations.RndMasksTheRandomByte : Prop :=
  ∀ (x : Reg) (nn : Byte) (s : State),
    (encode (.rnd x nn)).toNat = 0xC000 + x.val * 256 + nn.toNat ∧
    ∃ t, exec (.rnd x nn) s = .next t ∧ (∀ k, (t.getV x).getLsbD k = (s.rand.getLsbD k && nn.getLsbD k)) ∧
      ChangesOnly (fun p => p = .v x) s t

/-! ### Index and memory (43_index_memory.md) -/

/-- R160, R162: LD I and LD F. -/
def Obligations.IndexLoads : Prop :=
  ∀ (nnn : Addr12) (x : Reg) (s : State),
    (encode (.ldI nnn)).toNat = 0xA000 + nnn.toNat ∧ (encode (.ldF x)).toNat = 0xF029 + x.val * 256 ∧
    (∃ t, exec (.ldI nnn) s = .next t ∧ t.i.toNat = nnn.toNat ∧ ChangesOnly (fun p => p = .i) s t) ∧
    (∃ t, exec (.ldF x) s = .next t ∧ t.i.toNat = (s.getV x).toNat * 5 ∧ ChangesOnly (fun p => p = .i) s t)

/-- R161: ADD I, with VF set to 1 where the new index exceeds 1000 and, where it does not, as FX1E_VF_NOT_OVER says. -/
def Obligations.AddIndexFlagsOverOneThousand : Prop :=
  ∀ (x : Reg) (s : State), (encode (.addI x)).toNat = 0xF01E + x.val * 256 ∧
    ∃ t, exec (.addI x) s = .next t ∧
      t.i.toNat = (s.i.toNat + (s.getV x).toNat) % 65536 ∧
      t.getV VF = (if (s.i.toNat + (s.getV x).toNat) % 65536 > 1000 then 1#8
        else if s.cfg.fx1eVfNotOver = .zero then 0#8 else s.getV VF) ∧
      ChangesOnly (fun p => p = .i ∨ p = .v VF) s t

/-- R163: LD B stores the three decimal digits at I, I+1 and I+2, or faults with nothing written. -/
def Obligations.BcdStoresThreeDigits : Prop :=
  ∀ (x : Reg) (s : State), MemOk s → (encode (.ldB x)).toNat = 0xF033 + x.val * 256 ∧
    (s.i.toNat + 2 ≤ 0xFFF →
      ∃ t, exec (.ldB x) s = .next t ∧
        (t.readByte s.i.toNat).toNat = (s.getV x).toNat / 100 ∧
        (t.readByte (s.i.toNat + 1)).toNat = (s.getV x).toNat / 10 % 10 ∧
        (t.readByte (s.i.toNat + 2)).toNat = (s.getV x).toNat % 10 ∧
        ChangesOnly (fun p => p = .mem s.i.toNat ∨ p = .mem (s.i.toNat + 1) ∨ p = .mem (s.i.toNat + 2)) s t) ∧
    (0xFFF < s.i.toNat + 2 → ∃ t, exec (.ldB x) s = .next t ∧ FaultTaken .memRange (.ldB x) s t)

/-- R164: LD [I], Vx stores V[0] to V[x-1], each at its address, and leaves I as the mode says, or
faults with nothing written. -/
def Obligations.BlockStoreStoresXRegisters : Prop :=
  ∀ (n : Nibble) (s : State), MemOk s → (encode (.ldMemVx n)).toNat = 0xF055 + n.toNat * 256 ∧
    ((n.toNat = 0 ∨ transferAddr s.cfg s.i.toNat (n.toNat - 1) ≤ 0xFFF) →
      ∃ t, exec (.ldMemVx n) s = .next t ∧
        (∀ k : Reg, k.val < n.toNat → t.readByte (transferAddr s.cfg s.i.toNat k.val) = s.getV k) ∧
        t.i.toNat = (if s.cfg.legacyMode = true then (s.i.toNat + n.toNat) % 65536 else s.i.toNat) ∧
        ChangesOnly (fun p => p = .i ∨ ∃ k, k < n.toNat ∧ p = .mem (transferAddr s.cfg s.i.toNat k)) s t) ∧
    (0 < n.toNat → 0xFFF < transferAddr s.cfg s.i.toNat (n.toNat - 1) →
      ∃ t, exec (.ldMemVx n) s = .next t ∧ FaultTaken .memRange (.ldMemVx n) s t)

/-- R165: LD Vx, [I] loads V[0] to V[x-1], each from its address, and leaves I as the mode says, or
faults with no register changed. -/
def Obligations.BlockLoadLoadsXRegisters : Prop :=
  ∀ (n : Nibble) (s : State), (encode (.ldVxMem n)).toNat = 0xF065 + n.toNat * 256 ∧
    ((n.toNat = 0 ∨ transferAddr s.cfg s.i.toNat (n.toNat - 1) ≤ 0xFFF) →
      ∃ t, exec (.ldVxMem n) s = .next t ∧
        (∀ k : Reg, k.val < n.toNat → t.getV k = s.readByte (transferAddr s.cfg s.i.toNat k.val)) ∧
        t.i.toNat = (if s.cfg.legacyMode = true then (s.i.toNat + n.toNat) % 65536 else s.i.toNat) ∧
        ChangesOnly (fun p => p = .i ∨ ∃ k : Reg, k.val < n.toNat ∧ p = .v k) s t) ∧
    (0 < n.toNat → 0xFFF < transferAddr s.cfg s.i.toNat (n.toNat - 1) →
      ∃ t, exec (.ldVxMem n) s = .next t ∧ FaultTaken .memRange (.ldVxMem n) s t)

/-! ### Display (44_display.md) -/

/-- R183: CLS makes every cell 0 and writes nothing else, VF included. -/
def Obligations.ClsClearsEveryCell : Prop :=
  (encode .cls).toNat = 0x00E0 ∧
  ∀ s : State, ∃ t, exec .cls s = .next t ∧ (∀ (c : Fin 64) (r : Fin 32), t.cell c.val r.val = false) ∧
    ChangesOnly (fun p => ∃ c r, p = .cell c r) s t

/-- R180: one sprite row is XORed into the cells (px + k) mod 64 of row py mod 32, and the row collides exactly when a
cell went from 1 to 0. -/
def Obligations.DrawRowXorsAndCollides : Prop :=
  ∀ (fb : FrameBuffer) (px py : Nat) (b : Byte),
    (∀ (c : Fin 64) (r : Fin 32),
      (fb.drawRow px py b).1.cell c.val r.val ≠ fb.cell c.val r.val ↔ RowOn px py b c r) ∧
    ((fb.drawRow px py b).2 = true ↔
      ∃ (c : Fin 64) (r : Fin 32), fb.cell c.val r.val = true ∧ (fb.drawRow px py b).1.cell c.val r.val = false)

/-- R184, R185: DRW flips exactly the cells the sprite's 1 bits land on, with wraparound on both axes, and VF is 1
exactly when a cell went from 1 to 0; or it faults with nothing drawn. -/
def Obligations.DrwFlipsTheSpriteCells : Prop :=
  ∀ (x y : Reg) (n : Nibble) (s : State),
    (encode (.drw x y n)).toNat = 0xD000 + x.val * 256 + y.val * 16 + n.toNat ∧
    ((n.toNat = 0 ∨ s.i.toNat + n.toNat - 1 ≤ 0xFFF) →
      ∃ t, exec (.drw x y n) s = .next t ∧
        (∀ (c : Fin 64) (r : Fin 32), t.cell c.val r.val ≠ s.cell c.val r.val ↔ SpriteOn s x y n.toNat c r) ∧
        (t.getV VF = 0#8 ∨ t.getV VF = 1#8) ∧
        (t.getV VF = 1#8 ↔ ∃ (c : Fin 64) (r : Fin 32), s.cell c.val r.val = true ∧ t.cell c.val r.val = false) ∧
        ChangesOnly (fun p => p = .v VF ∨ ∃ c r, p = .cell c r) s t) ∧
    (0 < n.toNat → 0xFFF < s.i.toNat + n.toNat - 1 →
      ∃ t, exec (.drw x y n) s = .next t ∧ FaultTaken .memRange (.drw x y n) s t)

/-! ### Timers and input (45_timers_input.md) -/

/-- R201, R202, R203: the timer moves; `st_out` carries ST. -/
def Obligations.TimerMoves : Prop :=
  ∀ (x : Reg) (s : State),
    (encode (.ldVxDt x)).toNat = 0xF007 + x.val * 256 ∧ (encode (.ldDtVx x)).toNat = 0xF015 + x.val * 256 ∧
    (encode (.ldStVx x)).toNat = 0xF018 + x.val * 256 ∧
    (∃ t, exec (.ldVxDt x) s = .next t ∧ t.getV x = s.dt ∧ ChangesOnly (fun p => p = .v x) s t) ∧
    (∃ t, exec (.ldDtVx x) s = .next t ∧ t.dt = s.getV x ∧ ChangesOnly (fun p => p = .dt) s t) ∧
    (∃ t, exec (.ldStVx x) s = .next t ∧ t.st = s.getV x ∧ t.stOut = s.getV x ∧
      ChangesOnly (fun p => p = .st) s t)

/-- R205, R206, R207: the key skips, and their fault where V[x] names no key. -/
def Obligations.KeySkips : Prop :=
  ∀ (x : Reg) (s : State),
    (encode (.skp x)).toNat = 0xE09E + x.val * 256 ∧ (encode (.sknp x)).toNat = 0xE0A1 + x.val * 256 ∧
    (∀ k : Reg, (s.getV x).toNat = k.val →
      (∃ t, exec (.skp x) s = .next t ∧
        t.pc.toNat = (if s.pressed k = true then (s.pc.toNat + 2) % 65536 else s.pc.toNat) ∧
        ChangesOnly (fun p => p = .pc) s t) ∧
      (∃ t, exec (.sknp x) s = .next t ∧
        t.pc.toNat = (if s.pressed k = true then s.pc.toNat else (s.pc.toNat + 2) % 65536) ∧
        ChangesOnly (fun p => p = .pc) s t)) ∧
    (0xF < (s.getV x).toNat →
      (∃ t, exec (.skp x) s = .next t ∧ FaultTaken .keyRange (.skp x) s t) ∧
      (∃ t, exec (.sknp x) s = .next t ∧ FaultTaken .keyRange (.sknp x) s t))

/-- R208: LD Vx, K takes the lowest pressed key, or begins the wait. -/
def Obligations.KeyWaitTakesTheLowestKeyOrWaits : Prop :=
  ∀ (x : Reg) (s : State), (encode (.ldVxK x)).toNat = 0xF00A + x.val * 256 ∧
    (∀ k : Reg, LowestKey s.key k →
      ∃ t, exec (.ldVxK x) s = .next t ∧ (t.getV x).toNat = k.val ∧ ChangesOnly (fun p => p = .v x) s t) ∧
    (NoKey s.key →
      ∃ t, exec (.ldVxK x) s = .next t ∧ t.waiting = true ∧ t.waitX = x ∧
        ChangesOnly (fun p => p = .waiting ∨ p = .waitX) s t)

/-- R210: in a cycle that began waiting, a pressed key of the snapshot (the lowest) goes to V[WAIT_X] and ends the
wait; without one the wait goes on; in either case no instruction runs and PC stays. -/
def Obligations.WakeUpWritesTheKey : Prop :=
  ∀ (keys : BitVec 16) (rand : Byte) (s : State), Waiting s →
    (∀ k : Reg, LowestKey keys k →
      ∃ t, cycle keys rand s = .next t ∧ (t.getV s.waitX).toNat = k.val ∧ t.waiting = false ∧
        ChangesOnly (fun p => p = .v s.waitX ∨ p = .waiting ∨ phaseParts p) s t) ∧
    (NoKey keys → ∃ t, cycle keys rand s = .next t ∧ t.waiting = true ∧ ChangesOnly phaseParts s t)

/-- R211: the halt-control FSM's table, one tick at a time. -/
def Obligations.HaltControlFollowsItsTable : Prop :=
  ∀ (keys : BitVec 16) (rand : Byte) (s : State), ∃ t, cycle keys rand s = .next t ∧
    (Frozen s → Frozen t) ∧
    (Waiting s → NoKey keys → Waiting t) ∧
    (Waiting s → ¬ NoKey keys → Running t) ∧
    (Running s → (Frozen t ↔ CycleFaults s)) ∧
    (Running s → (Waiting t ↔ s.pc.toNat ≤ 0xFFE ∧ NoKey keys ∧ ∃ x, decode (wordAtPc s) = .instr (.ldVxK x)))

/-- R258, R212, R200: where the next `k` snapshots have no key and the one after them has one, a waiting machine waits
for exactly `k` steps, its PC constant and its timers counting down, and runs again after the step that sees the key,
with the lowest such key in V[WAIT_X]. The snapshots are those already fixed in State.inputs, the model's choice of how
the inputs come (log 1). -/
def Obligations.WaitLastsUntilAKey : Prop :=
  ∀ (k : Nat) (s : State) (cs rest : List CycleInput), Waiting s → s.inputs = cs ++ rest → cs.length = k →
    (∀ c ∈ cs, NoKey c.keys) →
    (∃ t, core.run k s = .next t ∧ Waiting t ∧ t.pc = s.pc ∧ t.waitX = s.waitX ∧ t.inputs = rest ∧
      t.dt.toNat = s.dt.toNat - k ∧ t.st.toNat = s.st.toNat - k) ∧
    (∀ (c : CycleInput) (later : List CycleInput) (j : Reg), rest = c :: later → LowestKey c.keys j →
      ∃ w, core.run (k + 1) s = .next w ∧ Running w ∧ (w.getV s.waitX).toNat = j.val ∧ w.pc = s.pc ∧
        w.inputs = later ∧ w.dt.toNat = s.dt.toNat - (k + 1) ∧ w.st.toNat = s.st.toNat - (k + 1))

/-! ### Faults (60_exceptions.md) -/

/-- R230: a cycle raises a fault in exactly the listed cases. -/
def Obligations.FaultsHappenExactlyInTheListedCases : Prop :=
  ∀ (keys : BitVec 16) (rand : Byte) (s : State), s.faulted = false →
    ∃ t, cycle keys rand s = .next t ∧ (t.faulted = true ↔ CycleFaults s)

/-- R231, R232: where a cycle faults, the record holds the code of the cause, the address of the fetch and the word
fetched (0x0000 for a fetch fault); PC keeps that address; the timer and refresh phases stay; nothing else changes. -/
def Obligations.FaultEntryIsPrecise : Prop :=
  (FaultCode.none.bits = 0#3 ∧ FaultCode.stackOverflow.bits = 1#3 ∧ FaultCode.stackUnderflow.bits = 2#3 ∧
    FaultCode.memRange.bits = 3#3 ∧ FaultCode.fetchRange.bits = 4#3 ∧ FaultCode.keyRange.bits = 5#3) ∧
  ∀ (keys : BitVec 16) (rand : Byte) (s : State), s.faulted = false → CycleFaults s →
    ∃ t, cycle keys rand s = .next t ∧ t.faulted = true ∧ t.faultPc = s.pc ∧ t.pc = s.pc ∧
      (if 0xFFE < s.pc.toNat then t.faultCode = .fetchRange ∧ t.faultWord = 0x0000#16
        else t.faultWord = wordAtPc s ∧ ∃ i, decode (wordAtPc s) = .instr i ∧ Faults i s t.faultCode) ∧
      t.dt.toNat = s.dt.toNat - 1 ∧ t.st.toNat = s.st.toNat - 1 ∧ t.key = keys ∧
      ChangesOnly (fun p => p = .fault ∨ phaseParts p) s t

/-- R259, R107, R233: every tick of every state completes: the machine answers a next state, never a stop. -/
def Obligations.EveryTickAnswersANextState : Prop := ∀ s : State, ∃ t, step s = .next t

/-! ### Rules over all instructions -/

/-- R22 (writes), R23, R25, R26, R28, R29, R30, R34, R35, R40, R50: no instruction changes a part that these rules do not
give it. -/
def Obligations.InstructionsChangeOnlyTheirParts : Prop :=
  ∀ (i : Instr) (s : State), MemOk s → ∃ t, exec i s = .next t ∧ ChangesOnly (mayChange i s) s t

/-- R22: a register in neither column of an instruction's row is neither read nor written: whatever it holds, the
instruction does the same and leaves it. -/
def Obligations.UnlistedRegistersAreNotUsed : Prop :=
  ∀ (i : Instr) (s : State) (r : Reg) (b : Byte), ¬ regReads s.cfg i r → ¬ regWrites i r →
    ∃ t, exec i s = .next t ∧ exec i (s.setV r b) = .next (t.setV r b)

/-- R26: only 2nnn writes a slot of the stack, and only 00EE reads one: with any other stack every other instruction does
the same and leaves that stack, but for the slot a call pushes to, which gets what it gets with the first stack. -/
def Obligations.OnlyCallWritesAndOnlyRetReadsTheStack : Prop :=
  (∀ (i : Instr) (s : State), (∀ nnn, i ≠ .call nnn) → ∃ t, exec i s = .next t ∧ t.stack = s.stack) ∧
  (∀ (i : Instr) (s : State) (k : Vector Word 16), i ≠ .ret →
    ∃ t k', exec i s = .next t ∧ exec i { s with stack := k } = .next { t with stack := k' } ∧
      ((∀ nnn, i ≠ .call nnn) → k' = k) ∧
      (∀ nnn, i = .call nnn →
        ∀ j : Fin 16, k'[j] = if j.val = s.sp.toNat + 1 then t.stack[j] else k[j]))

/-- R155 (and the last sentence of R21): VF is written by 8xy4, 8xy5, 8xy6, 8xy7, 8xyE, Dxyn and Fx1E as a side effect, and by no other instruction but
as its named destination register. -/
def Obligations.OnlyTheListedInstructionsWriteVf : Prop :=
  ∀ (i : Instr) (s : State), ∃ t, exec i s = .next t ∧
    (t.getV VF ≠ s.getV VF →
      (∃ x y, i = .addReg x y ∨ i = .subReg x y ∨ i = .shr x y ∨ i = .subn x y ∨ i = .shl x y) ∨
      (∃ x y n, i = .drw x y n) ∨ (∃ x, i = .addI x) ∨
      (∃ nn, i = .ldImm VF nn ∨ i = .addImm VF nn ∨ i = .rnd VF nn) ∨
      (∃ y, i = .ldReg VF y ∨ i = .orReg VF y ∨ i = .andReg VF y ∨ i = .xorReg VF y) ∨
      i = .ldVxDt VF ∨ i = .ldVxK VF)

/-- R104: LEGACY_MODE never changes, with the rest of the configuration, and is read by 8xy6, 8xyE, Bnnn, Fx55 and
Fx65 only: any other instruction does the same in both modes, and each of the five differs somewhere. -/
def Obligations.LegacyModeIsReadAtFivePlaces : Prop :=
  (∀ s : State, ∃ t, step s = .next t ∧ t.cfg = s.cfg) ∧
  (∀ (i : Instr) (s : State) (b : Bool),
    (∀ x y, i ≠ .shr x y ∧ i ≠ .shl x y) → (∀ nnn, i ≠ .jpV0 nnn) → (∀ n, i ≠ .ldMemVx n ∧ i ≠ .ldVxMem n) →
    ∃ t, exec i s = .next t ∧
      exec i { s with cfg := { s.cfg with legacyMode := b } } =
        .next { t with cfg := { t.cfg with legacyMode := b } }) ∧
  (∃ (x y : Reg) (nnn : Addr12) (n : Nibble) (s : State),
    ∀ i ∈ [Instr.shr x y, Instr.shl x y, Instr.jpV0 nnn, Instr.ldMemVx n, Instr.ldVxMem n],
      ∃ t t', exec i s = .next t ∧ exec i { s with cfg := { s.cfg with legacyMode := true } } = .next t' ∧
        ¬ ChangesOnly (fun p => p = .cfg) t t')

/-- R36: the random byte is read only by Cxnn. -/
def Obligations.OnlyRndReadsTheRandomByte : Prop :=
  ∀ (i : Instr) (s : State) (b : Byte), (∀ x nn, i ≠ .rnd x nn) →
    ∃ t, exec i s = .next t ∧ exec i { s with rand := b } = .next { t with rand := b }

/-- R28: no instruction reads ST: with any other value in it the instruction does the same, and leaves that value, or
what Fx18 wrote, which is the same whatever ST held. -/
def Obligations.NoInstructionReadsTheSoundTimer : Prop :=
  ∀ (i : Instr) (s : State) (b : Byte), ∃ t b', exec i s = .next t ∧
    exec i (s.setSt b) = .next (t.setSt b') ∧
    ((∀ x, i ≠ .ldStVx x) → t.st = s.st ∧ b' = b) ∧ (∀ x, i = .ldStVx x → b' = t.st)

/-! ### Runs -/

/-- R260: at the end of a run further ticks change only DT and ST, which count down, and KEY (and the model's record of
the cycle's outputs and inputs). -/
def Obligations.FinishedRunOnlyCountsDown : Prop :=
  ∀ (keys : BitVec 16) (rand : Byte) (s : State), Finished s →
    ∃ t, cycle keys rand s = .next t ∧ Finished t ∧ ChangesOnly phaseParts s t ∧
      t.dt.toNat = s.dt.toNat - 1 ∧ t.st.toNat = s.st.toNat - 1 ∧ t.key = keys

/-- The model's invariant at every reset state. -/
def Obligations.ResetMeetsTheInvariant : Prop := ∀ c : Config, Inv (State.resetWith c)

/-- Every step keeps the invariant, from every state that meets it: the memory stays canonical, WAITING and FAULTED are
never both set, the fault record is clear before a fault and a frozen machine's PC is the faulting address, PC never
passes 0x10FE and a return address never passes 0x1000. -/
def Obligations.EveryStepKeepsTheInvariant : Prop :=
  ∀ s t : State, Inv s → step s = .next t → Inv t
end

