-- ==== Sys2Proof/Laws/State.lean ====
section
/-! SUPPORT. One lemma per field per update of State, true by rfl, so that no proof unfolds a record update; the accessors
that an update leaves alone; and the composite updates written in the plain ones. -/

namespace Sys2Proof.Machine.State

/-! ### setMem -/

section
variable (s : State) (m : Memory)

@[simp] theorem setMem_v : (s.setMem m).v = s.v := rfl
@[simp] theorem setMem_i : (s.setMem m).i = s.i := rfl
@[simp] theorem setMem_pc : (s.setMem m).pc = s.pc := rfl
@[simp] theorem setMem_sp : (s.setMem m).sp = s.sp := rfl
@[simp] theorem setMem_stack : (s.setMem m).stack = s.stack := rfl
@[simp] theorem setMem_dt : (s.setMem m).dt = s.dt := rfl
@[simp] theorem setMem_st : (s.setMem m).st = s.st := rfl
@[simp] theorem setMem_waiting : (s.setMem m).waiting = s.waiting := rfl
@[simp] theorem setMem_waitX : (s.setMem m).waitX = s.waitX := rfl
@[simp] theorem setMem_mem : (s.setMem m).mem = m := rfl
@[simp] theorem setMem_fb : (s.setMem m).fb = s.fb := rfl
@[simp] theorem setMem_key : (s.setMem m).key = s.key := rfl
@[simp] theorem setMem_faulted : (s.setMem m).faulted = s.faulted := rfl
@[simp] theorem setMem_faultCode : (s.setMem m).faultCode = s.faultCode := rfl
@[simp] theorem setMem_faultPc : (s.setMem m).faultPc = s.faultPc := rfl
@[simp] theorem setMem_faultWord : (s.setMem m).faultWord = s.faultWord := rfl
@[simp] theorem setMem_cfg : (s.setMem m).cfg = s.cfg := rfl
@[simp] theorem setMem_inputs : (s.setMem m).inputs = s.inputs := rfl
@[simp] theorem setMem_tick : (s.setMem m).tick = s.tick := rfl
@[simp] theorem setMem_rand : (s.setMem m).rand = s.rand := rfl
@[simp] theorem setMem_diag : (s.setMem m).diag = s.diag := rfl
@[simp] theorem setMem_getV (r : Reg) : (s.setMem m).getV r = s.getV r := rfl
@[simp] theorem setMem_cell (c r : Nat) : (s.setMem m).cell c r = s.cell c r := rfl
@[simp] theorem setMem_pressed (k : Reg) : (s.setMem m).pressed k = s.pressed k := rfl
@[simp] theorem setMem_unlisted : (s.setMem m).unlisted = s.unlisted := rfl

end

/-! ### setV -/

section
variable (s : State) (x : Reg) (b : Byte)

@[simp] theorem setV_v : (s.setV x b).v = s.v.set x b := rfl
@[simp] theorem setV_i : (s.setV x b).i = s.i := rfl
@[simp] theorem setV_pc : (s.setV x b).pc = s.pc := rfl
@[simp] theorem setV_sp : (s.setV x b).sp = s.sp := rfl
@[simp] theorem setV_stack : (s.setV x b).stack = s.stack := rfl
@[simp] theorem setV_dt : (s.setV x b).dt = s.dt := rfl
@[simp] theorem setV_st : (s.setV x b).st = s.st := rfl
@[simp] theorem setV_waiting : (s.setV x b).waiting = s.waiting := rfl
@[simp] theorem setV_waitX : (s.setV x b).waitX = s.waitX := rfl
@[simp] theorem setV_mem : (s.setV x b).mem = s.mem := rfl
@[simp] theorem setV_fb : (s.setV x b).fb = s.fb := rfl
@[simp] theorem setV_key : (s.setV x b).key = s.key := rfl
@[simp] theorem setV_faulted : (s.setV x b).faulted = s.faulted := rfl
@[simp] theorem setV_faultCode : (s.setV x b).faultCode = s.faultCode := rfl
@[simp] theorem setV_faultPc : (s.setV x b).faultPc = s.faultPc := rfl
@[simp] theorem setV_faultWord : (s.setV x b).faultWord = s.faultWord := rfl
@[simp] theorem setV_cfg : (s.setV x b).cfg = s.cfg := rfl
@[simp] theorem setV_inputs : (s.setV x b).inputs = s.inputs := rfl
@[simp] theorem setV_tick : (s.setV x b).tick = s.tick := rfl
@[simp] theorem setV_rand : (s.setV x b).rand = s.rand := rfl
@[simp] theorem setV_diag : (s.setV x b).diag = s.diag := rfl
@[simp] theorem setV_readByte (p : Nat) : (s.setV x b).readByte p = s.readByte p := rfl
@[simp] theorem setV_cell (c r : Nat) : (s.setV x b).cell c r = s.cell c r := rfl
@[simp] theorem setV_pressed (k : Reg) : (s.setV x b).pressed k = s.pressed k := rfl
@[simp] theorem setV_unlisted : (s.setV x b).unlisted = s.unlisted := rfl

end

/-! ### setVs -/

section
variable (s : State) (bs : List Byte)

@[simp] theorem setVs_v : (s.setVs bs).v = loadRegs s.v 0 bs := rfl
@[simp] theorem setVs_i : (s.setVs bs).i = s.i := rfl
@[simp] theorem setVs_pc : (s.setVs bs).pc = s.pc := rfl
@[simp] theorem setVs_sp : (s.setVs bs).sp = s.sp := rfl
@[simp] theorem setVs_stack : (s.setVs bs).stack = s.stack := rfl
@[simp] theorem setVs_dt : (s.setVs bs).dt = s.dt := rfl
@[simp] theorem setVs_st : (s.setVs bs).st = s.st := rfl
@[simp] theorem setVs_waiting : (s.setVs bs).waiting = s.waiting := rfl
@[simp] theorem setVs_waitX : (s.setVs bs).waitX = s.waitX := rfl
@[simp] theorem setVs_mem : (s.setVs bs).mem = s.mem := rfl
@[simp] theorem setVs_fb : (s.setVs bs).fb = s.fb := rfl
@[simp] theorem setVs_key : (s.setVs bs).key = s.key := rfl
@[simp] theorem setVs_faulted : (s.setVs bs).faulted = s.faulted := rfl
@[simp] theorem setVs_faultCode : (s.setVs bs).faultCode = s.faultCode := rfl
@[simp] theorem setVs_faultPc : (s.setVs bs).faultPc = s.faultPc := rfl
@[simp] theorem setVs_faultWord : (s.setVs bs).faultWord = s.faultWord := rfl
@[simp] theorem setVs_cfg : (s.setVs bs).cfg = s.cfg := rfl
@[simp] theorem setVs_inputs : (s.setVs bs).inputs = s.inputs := rfl
@[simp] theorem setVs_tick : (s.setVs bs).tick = s.tick := rfl
@[simp] theorem setVs_rand : (s.setVs bs).rand = s.rand := rfl
@[simp] theorem setVs_diag : (s.setVs bs).diag = s.diag := rfl
@[simp] theorem setVs_readByte (p : Nat) : (s.setVs bs).readByte p = s.readByte p := rfl
@[simp] theorem setVs_cell (c r : Nat) : (s.setVs bs).cell c r = s.cell c r := rfl
@[simp] theorem setVs_pressed (k : Reg) : (s.setVs bs).pressed k = s.pressed k := rfl
@[simp] theorem setVs_unlisted : (s.setVs bs).unlisted = s.unlisted := rfl

end

/-! ### setI -/

section
variable (s : State) (a : Word)

@[simp] theorem setI_v : (s.setI a).v = s.v := rfl
@[simp] theorem setI_i : (s.setI a).i = a := rfl
@[simp] theorem setI_pc : (s.setI a).pc = s.pc := rfl
@[simp] theorem setI_sp : (s.setI a).sp = s.sp := rfl
@[simp] theorem setI_stack : (s.setI a).stack = s.stack := rfl
@[simp] theorem setI_dt : (s.setI a).dt = s.dt := rfl
@[simp] theorem setI_st : (s.setI a).st = s.st := rfl
@[simp] theorem setI_waiting : (s.setI a).waiting = s.waiting := rfl
@[simp] theorem setI_waitX : (s.setI a).waitX = s.waitX := rfl
@[simp] theorem setI_mem : (s.setI a).mem = s.mem := rfl
@[simp] theorem setI_fb : (s.setI a).fb = s.fb := rfl
@[simp] theorem setI_key : (s.setI a).key = s.key := rfl
@[simp] theorem setI_faulted : (s.setI a).faulted = s.faulted := rfl
@[simp] theorem setI_faultCode : (s.setI a).faultCode = s.faultCode := rfl
@[simp] theorem setI_faultPc : (s.setI a).faultPc = s.faultPc := rfl
@[simp] theorem setI_faultWord : (s.setI a).faultWord = s.faultWord := rfl
@[simp] theorem setI_cfg : (s.setI a).cfg = s.cfg := rfl
@[simp] theorem setI_inputs : (s.setI a).inputs = s.inputs := rfl
@[simp] theorem setI_tick : (s.setI a).tick = s.tick := rfl
@[simp] theorem setI_rand : (s.setI a).rand = s.rand := rfl
@[simp] theorem setI_diag : (s.setI a).diag = s.diag := rfl
@[simp] theorem setI_getV (r : Reg) : (s.setI a).getV r = s.getV r := rfl
@[simp] theorem setI_readByte (p : Nat) : (s.setI a).readByte p = s.readByte p := rfl
@[simp] theorem setI_cell (c r : Nat) : (s.setI a).cell c r = s.cell c r := rfl
@[simp] theorem setI_pressed (k : Reg) : (s.setI a).pressed k = s.pressed k := rfl
@[simp] theorem setI_unlisted : (s.setI a).unlisted = s.unlisted := rfl

end

/-! ### setPc -/

section
variable (s : State) (a : Word)

@[simp] theorem setPc_v : (s.setPc a).v = s.v := rfl
@[simp] theorem setPc_i : (s.setPc a).i = s.i := rfl
@[simp] theorem setPc_pc : (s.setPc a).pc = a := rfl
@[simp] theorem setPc_sp : (s.setPc a).sp = s.sp := rfl
@[simp] theorem setPc_stack : (s.setPc a).stack = s.stack := rfl
@[simp] theorem setPc_dt : (s.setPc a).dt = s.dt := rfl
@[simp] theorem setPc_st : (s.setPc a).st = s.st := rfl
@[simp] theorem setPc_waiting : (s.setPc a).waiting = s.waiting := rfl
@[simp] theorem setPc_waitX : (s.setPc a).waitX = s.waitX := rfl
@[simp] theorem setPc_mem : (s.setPc a).mem = s.mem := rfl
@[simp] theorem setPc_fb : (s.setPc a).fb = s.fb := rfl
@[simp] theorem setPc_key : (s.setPc a).key = s.key := rfl
@[simp] theorem setPc_faulted : (s.setPc a).faulted = s.faulted := rfl
@[simp] theorem setPc_faultCode : (s.setPc a).faultCode = s.faultCode := rfl
@[simp] theorem setPc_faultPc : (s.setPc a).faultPc = s.faultPc := rfl
@[simp] theorem setPc_faultWord : (s.setPc a).faultWord = s.faultWord := rfl
@[simp] theorem setPc_cfg : (s.setPc a).cfg = s.cfg := rfl
@[simp] theorem setPc_inputs : (s.setPc a).inputs = s.inputs := rfl
@[simp] theorem setPc_tick : (s.setPc a).tick = s.tick := rfl
@[simp] theorem setPc_rand : (s.setPc a).rand = s.rand := rfl
@[simp] theorem setPc_diag : (s.setPc a).diag = s.diag := rfl
@[simp] theorem setPc_getV (r : Reg) : (s.setPc a).getV r = s.getV r := rfl
@[simp] theorem setPc_readByte (p : Nat) : (s.setPc a).readByte p = s.readByte p := rfl
@[simp] theorem setPc_cell (c r : Nat) : (s.setPc a).cell c r = s.cell c r := rfl
@[simp] theorem setPc_pressed (k : Reg) : (s.setPc a).pressed k = s.pressed k := rfl
@[simp] theorem setPc_unlisted : (s.setPc a).unlisted = s.unlisted := rfl

end

/-! ### setDt -/

section
variable (s : State) (b : Byte)

@[simp] theorem setDt_v : (s.setDt b).v = s.v := rfl
@[simp] theorem setDt_i : (s.setDt b).i = s.i := rfl
@[simp] theorem setDt_pc : (s.setDt b).pc = s.pc := rfl
@[simp] theorem setDt_sp : (s.setDt b).sp = s.sp := rfl
@[simp] theorem setDt_stack : (s.setDt b).stack = s.stack := rfl
@[simp] theorem setDt_dt : (s.setDt b).dt = b := rfl
@[simp] theorem setDt_st : (s.setDt b).st = s.st := rfl
@[simp] theorem setDt_waiting : (s.setDt b).waiting = s.waiting := rfl
@[simp] theorem setDt_waitX : (s.setDt b).waitX = s.waitX := rfl
@[simp] theorem setDt_mem : (s.setDt b).mem = s.mem := rfl
@[simp] theorem setDt_fb : (s.setDt b).fb = s.fb := rfl
@[simp] theorem setDt_key : (s.setDt b).key = s.key := rfl
@[simp] theorem setDt_faulted : (s.setDt b).faulted = s.faulted := rfl
@[simp] theorem setDt_faultCode : (s.setDt b).faultCode = s.faultCode := rfl
@[simp] theorem setDt_faultPc : (s.setDt b).faultPc = s.faultPc := rfl
@[simp] theorem setDt_faultWord : (s.setDt b).faultWord = s.faultWord := rfl
@[simp] theorem setDt_cfg : (s.setDt b).cfg = s.cfg := rfl
@[simp] theorem setDt_inputs : (s.setDt b).inputs = s.inputs := rfl
@[simp] theorem setDt_tick : (s.setDt b).tick = s.tick := rfl
@[simp] theorem setDt_rand : (s.setDt b).rand = s.rand := rfl
@[simp] theorem setDt_diag : (s.setDt b).diag = s.diag := rfl
@[simp] theorem setDt_getV (r : Reg) : (s.setDt b).getV r = s.getV r := rfl
@[simp] theorem setDt_readByte (p : Nat) : (s.setDt b).readByte p = s.readByte p := rfl
@[simp] theorem setDt_cell (c r : Nat) : (s.setDt b).cell c r = s.cell c r := rfl
@[simp] theorem setDt_pressed (k : Reg) : (s.setDt b).pressed k = s.pressed k := rfl
@[simp] theorem setDt_unlisted : (s.setDt b).unlisted = s.unlisted := rfl

end

/-! ### setSt -/

section
variable (s : State) (b : Byte)

@[simp] theorem setSt_v : (s.setSt b).v = s.v := rfl
@[simp] theorem setSt_i : (s.setSt b).i = s.i := rfl
@[simp] theorem setSt_pc : (s.setSt b).pc = s.pc := rfl
@[simp] theorem setSt_sp : (s.setSt b).sp = s.sp := rfl
@[simp] theorem setSt_stack : (s.setSt b).stack = s.stack := rfl
@[simp] theorem setSt_dt : (s.setSt b).dt = s.dt := rfl
@[simp] theorem setSt_st : (s.setSt b).st = b := rfl
@[simp] theorem setSt_waiting : (s.setSt b).waiting = s.waiting := rfl
@[simp] theorem setSt_waitX : (s.setSt b).waitX = s.waitX := rfl
@[simp] theorem setSt_mem : (s.setSt b).mem = s.mem := rfl
@[simp] theorem setSt_fb : (s.setSt b).fb = s.fb := rfl
@[simp] theorem setSt_key : (s.setSt b).key = s.key := rfl
@[simp] theorem setSt_faulted : (s.setSt b).faulted = s.faulted := rfl
@[simp] theorem setSt_faultCode : (s.setSt b).faultCode = s.faultCode := rfl
@[simp] theorem setSt_faultPc : (s.setSt b).faultPc = s.faultPc := rfl
@[simp] theorem setSt_faultWord : (s.setSt b).faultWord = s.faultWord := rfl
@[simp] theorem setSt_cfg : (s.setSt b).cfg = s.cfg := rfl
@[simp] theorem setSt_inputs : (s.setSt b).inputs = s.inputs := rfl
@[simp] theorem setSt_tick : (s.setSt b).tick = s.tick := rfl
@[simp] theorem setSt_rand : (s.setSt b).rand = s.rand := rfl
@[simp] theorem setSt_diag : (s.setSt b).diag = s.diag := rfl
@[simp] theorem setSt_getV (r : Reg) : (s.setSt b).getV r = s.getV r := rfl
@[simp] theorem setSt_readByte (p : Nat) : (s.setSt b).readByte p = s.readByte p := rfl
@[simp] theorem setSt_cell (c r : Nat) : (s.setSt b).cell c r = s.cell c r := rfl
@[simp] theorem setSt_pressed (k : Reg) : (s.setSt b).pressed k = s.pressed k := rfl
@[simp] theorem setSt_unlisted : (s.setSt b).unlisted = s.unlisted := rfl

end

/-! ### push -/

section
variable (s : State) (a : Word)

@[simp] theorem push_v : (s.push a).v = s.v := rfl
@[simp] theorem push_i : (s.push a).i = s.i := rfl
@[simp] theorem push_pc : (s.push a).pc = s.pc := rfl
@[simp] theorem push_sp : (s.push a).sp = s.sp + 1#4 := rfl
@[simp] theorem push_stack : (s.push a).stack = s.stack.set (s.sp + 1#4).toNat a (s.sp + 1#4).isLt := rfl
@[simp] theorem push_dt : (s.push a).dt = s.dt := rfl
@[simp] theorem push_st : (s.push a).st = s.st := rfl
@[simp] theorem push_waiting : (s.push a).waiting = s.waiting := rfl
@[simp] theorem push_waitX : (s.push a).waitX = s.waitX := rfl
@[simp] theorem push_mem : (s.push a).mem = s.mem := rfl
@[simp] theorem push_fb : (s.push a).fb = s.fb := rfl
@[simp] theorem push_key : (s.push a).key = s.key := rfl
@[simp] theorem push_faulted : (s.push a).faulted = s.faulted := rfl
@[simp] theorem push_faultCode : (s.push a).faultCode = s.faultCode := rfl
@[simp] theorem push_faultPc : (s.push a).faultPc = s.faultPc := rfl
@[simp] theorem push_faultWord : (s.push a).faultWord = s.faultWord := rfl
@[simp] theorem push_cfg : (s.push a).cfg = s.cfg := rfl
@[simp] theorem push_inputs : (s.push a).inputs = s.inputs := rfl
@[simp] theorem push_tick : (s.push a).tick = s.tick := rfl
@[simp] theorem push_rand : (s.push a).rand = s.rand := rfl
@[simp] theorem push_diag : (s.push a).diag = s.diag := rfl
@[simp] theorem push_getV (r : Reg) : (s.push a).getV r = s.getV r := rfl
@[simp] theorem push_readByte (p : Nat) : (s.push a).readByte p = s.readByte p := rfl
@[simp] theorem push_cell (c r : Nat) : (s.push a).cell c r = s.cell c r := rfl
@[simp] theorem push_pressed (k : Reg) : (s.push a).pressed k = s.pressed k := rfl
@[simp] theorem push_unlisted : (s.push a).unlisted = s.unlisted := rfl

end

/-! ### popPc -/

section
variable (s : State)

@[simp] theorem popPc_v : s.popPc.v = s.v := rfl
@[simp] theorem popPc_i : s.popPc.i = s.i := rfl
@[simp] theorem popPc_pc : s.popPc.pc = s.top := rfl
@[simp] theorem popPc_sp : s.popPc.sp = s.sp - 1#4 := rfl
@[simp] theorem popPc_stack : s.popPc.stack = s.stack := rfl
@[simp] theorem popPc_dt : s.popPc.dt = s.dt := rfl
@[simp] theorem popPc_st : s.popPc.st = s.st := rfl
@[simp] theorem popPc_waiting : s.popPc.waiting = s.waiting := rfl
@[simp] theorem popPc_waitX : s.popPc.waitX = s.waitX := rfl
@[simp] theorem popPc_mem : s.popPc.mem = s.mem := rfl
@[simp] theorem popPc_fb : s.popPc.fb = s.fb := rfl
@[simp] theorem popPc_key : s.popPc.key = s.key := rfl
@[simp] theorem popPc_faulted : s.popPc.faulted = s.faulted := rfl
@[simp] theorem popPc_faultCode : s.popPc.faultCode = s.faultCode := rfl
@[simp] theorem popPc_faultPc : s.popPc.faultPc = s.faultPc := rfl
@[simp] theorem popPc_faultWord : s.popPc.faultWord = s.faultWord := rfl
@[simp] theorem popPc_cfg : s.popPc.cfg = s.cfg := rfl
@[simp] theorem popPc_inputs : s.popPc.inputs = s.inputs := rfl
@[simp] theorem popPc_tick : s.popPc.tick = s.tick := rfl
@[simp] theorem popPc_rand : s.popPc.rand = s.rand := rfl
@[simp] theorem popPc_diag : s.popPc.diag = s.diag := rfl
@[simp] theorem popPc_getV (r : Reg) : s.popPc.getV r = s.getV r := rfl
@[simp] theorem popPc_readByte (p : Nat) : s.popPc.readByte p = s.readByte p := rfl
@[simp] theorem popPc_cell (c r : Nat) : s.popPc.cell c r = s.cell c r := rfl
@[simp] theorem popPc_pressed (k : Reg) : s.popPc.pressed k = s.pressed k := rfl
@[simp] theorem popPc_unlisted : s.popPc.unlisted = s.unlisted := rfl

end

/-! ### setFb -/

section
variable (s : State) (fb : FrameBuffer)

@[simp] theorem setFb_v : (s.setFb fb).v = s.v := rfl
@[simp] theorem setFb_i : (s.setFb fb).i = s.i := rfl
@[simp] theorem setFb_pc : (s.setFb fb).pc = s.pc := rfl
@[simp] theorem setFb_sp : (s.setFb fb).sp = s.sp := rfl
@[simp] theorem setFb_stack : (s.setFb fb).stack = s.stack := rfl
@[simp] theorem setFb_dt : (s.setFb fb).dt = s.dt := rfl
@[simp] theorem setFb_st : (s.setFb fb).st = s.st := rfl
@[simp] theorem setFb_waiting : (s.setFb fb).waiting = s.waiting := rfl
@[simp] theorem setFb_waitX : (s.setFb fb).waitX = s.waitX := rfl
@[simp] theorem setFb_mem : (s.setFb fb).mem = s.mem := rfl
@[simp] theorem setFb_fb : (s.setFb fb).fb = fb := rfl
@[simp] theorem setFb_key : (s.setFb fb).key = s.key := rfl
@[simp] theorem setFb_faulted : (s.setFb fb).faulted = s.faulted := rfl
@[simp] theorem setFb_faultCode : (s.setFb fb).faultCode = s.faultCode := rfl
@[simp] theorem setFb_faultPc : (s.setFb fb).faultPc = s.faultPc := rfl
@[simp] theorem setFb_faultWord : (s.setFb fb).faultWord = s.faultWord := rfl
@[simp] theorem setFb_cfg : (s.setFb fb).cfg = s.cfg := rfl
@[simp] theorem setFb_inputs : (s.setFb fb).inputs = s.inputs := rfl
@[simp] theorem setFb_tick : (s.setFb fb).tick = s.tick := rfl
@[simp] theorem setFb_rand : (s.setFb fb).rand = s.rand := rfl
@[simp] theorem setFb_diag : (s.setFb fb).diag = s.diag := rfl
@[simp] theorem setFb_getV (r : Reg) : (s.setFb fb).getV r = s.getV r := rfl
@[simp] theorem setFb_readByte (p : Nat) : (s.setFb fb).readByte p = s.readByte p := rfl
@[simp] theorem setFb_pressed (k : Reg) : (s.setFb fb).pressed k = s.pressed k := rfl
@[simp] theorem setFb_unlisted : (s.setFb fb).unlisted = s.unlisted := rfl

end

/-! ### startWait -/

section
variable (s : State) (x : Reg)

@[simp] theorem startWait_v : (s.startWait x).v = s.v := rfl
@[simp] theorem startWait_i : (s.startWait x).i = s.i := rfl
@[simp] theorem startWait_pc : (s.startWait x).pc = s.pc := rfl
@[simp] theorem startWait_sp : (s.startWait x).sp = s.sp := rfl
@[simp] theorem startWait_stack : (s.startWait x).stack = s.stack := rfl
@[simp] theorem startWait_dt : (s.startWait x).dt = s.dt := rfl
@[simp] theorem startWait_st : (s.startWait x).st = s.st := rfl
@[simp] theorem startWait_waiting : (s.startWait x).waiting = true := rfl
@[simp] theorem startWait_waitX : (s.startWait x).waitX = x := rfl
@[simp] theorem startWait_mem : (s.startWait x).mem = s.mem := rfl
@[simp] theorem startWait_fb : (s.startWait x).fb = s.fb := rfl
@[simp] theorem startWait_key : (s.startWait x).key = s.key := rfl
@[simp] theorem startWait_faulted : (s.startWait x).faulted = s.faulted := rfl
@[simp] theorem startWait_faultCode : (s.startWait x).faultCode = s.faultCode := rfl
@[simp] theorem startWait_faultPc : (s.startWait x).faultPc = s.faultPc := rfl
@[simp] theorem startWait_faultWord : (s.startWait x).faultWord = s.faultWord := rfl
@[simp] theorem startWait_cfg : (s.startWait x).cfg = s.cfg := rfl
@[simp] theorem startWait_inputs : (s.startWait x).inputs = s.inputs := rfl
@[simp] theorem startWait_tick : (s.startWait x).tick = s.tick := rfl
@[simp] theorem startWait_rand : (s.startWait x).rand = s.rand := rfl
@[simp] theorem startWait_diag : (s.startWait x).diag = s.diag := rfl
@[simp] theorem startWait_getV (r : Reg) : (s.startWait x).getV r = s.getV r := rfl
@[simp] theorem startWait_readByte (p : Nat) : (s.startWait x).readByte p = s.readByte p := rfl
@[simp] theorem startWait_cell (c r : Nat) : (s.startWait x).cell c r = s.cell c r := rfl
@[simp] theorem startWait_pressed (k : Reg) : (s.startWait x).pressed k = s.pressed k := rfl
@[simp] theorem startWait_unlisted : (s.startWait x).unlisted = s.unlisted := rfl

end

/-! ### endWait -/

section
variable (s : State)

@[simp] theorem endWait_v : s.endWait.v = s.v := rfl
@[simp] theorem endWait_i : s.endWait.i = s.i := rfl
@[simp] theorem endWait_pc : s.endWait.pc = s.pc := rfl
@[simp] theorem endWait_sp : s.endWait.sp = s.sp := rfl
@[simp] theorem endWait_stack : s.endWait.stack = s.stack := rfl
@[simp] theorem endWait_dt : s.endWait.dt = s.dt := rfl
@[simp] theorem endWait_st : s.endWait.st = s.st := rfl
@[simp] theorem endWait_waiting : s.endWait.waiting = false := rfl
@[simp] theorem endWait_waitX : s.endWait.waitX = s.waitX := rfl
@[simp] theorem endWait_mem : s.endWait.mem = s.mem := rfl
@[simp] theorem endWait_fb : s.endWait.fb = s.fb := rfl
@[simp] theorem endWait_key : s.endWait.key = s.key := rfl
@[simp] theorem endWait_faulted : s.endWait.faulted = s.faulted := rfl
@[simp] theorem endWait_faultCode : s.endWait.faultCode = s.faultCode := rfl
@[simp] theorem endWait_faultPc : s.endWait.faultPc = s.faultPc := rfl
@[simp] theorem endWait_faultWord : s.endWait.faultWord = s.faultWord := rfl
@[simp] theorem endWait_cfg : s.endWait.cfg = s.cfg := rfl
@[simp] theorem endWait_inputs : s.endWait.inputs = s.inputs := rfl
@[simp] theorem endWait_tick : s.endWait.tick = s.tick := rfl
@[simp] theorem endWait_rand : s.endWait.rand = s.rand := rfl
@[simp] theorem endWait_diag : s.endWait.diag = s.diag := rfl
@[simp] theorem endWait_getV (r : Reg) : s.endWait.getV r = s.getV r := rfl
@[simp] theorem endWait_readByte (p : Nat) : s.endWait.readByte p = s.readByte p := rfl
@[simp] theorem endWait_cell (c r : Nat) : s.endWait.cell c r = s.cell c r := rfl
@[simp] theorem endWait_pressed (k : Reg) : s.endWait.pressed k = s.pressed k := rfl
@[simp] theorem endWait_unlisted : s.endWait.unlisted = s.unlisted := rfl

end

/-! ### enterFault -/

section
variable (s : State) (code : FaultCode) (pc0 w : Word)

@[simp] theorem enterFault_v : (s.enterFault code pc0 w).v = s.v := rfl
@[simp] theorem enterFault_i : (s.enterFault code pc0 w).i = s.i := rfl
@[simp] theorem enterFault_pc : (s.enterFault code pc0 w).pc = pc0 := rfl
@[simp] theorem enterFault_sp : (s.enterFault code pc0 w).sp = s.sp := rfl
@[simp] theorem enterFault_stack : (s.enterFault code pc0 w).stack = s.stack := rfl
@[simp] theorem enterFault_dt : (s.enterFault code pc0 w).dt = s.dt := rfl
@[simp] theorem enterFault_st : (s.enterFault code pc0 w).st = s.st := rfl
@[simp] theorem enterFault_waiting : (s.enterFault code pc0 w).waiting = s.waiting := rfl
@[simp] theorem enterFault_waitX : (s.enterFault code pc0 w).waitX = s.waitX := rfl
@[simp] theorem enterFault_mem : (s.enterFault code pc0 w).mem = s.mem := rfl
@[simp] theorem enterFault_fb : (s.enterFault code pc0 w).fb = s.fb := rfl
@[simp] theorem enterFault_key : (s.enterFault code pc0 w).key = s.key := rfl
@[simp] theorem enterFault_faulted : (s.enterFault code pc0 w).faulted = true := rfl
@[simp] theorem enterFault_faultCode : (s.enterFault code pc0 w).faultCode = code := rfl
@[simp] theorem enterFault_faultPc : (s.enterFault code pc0 w).faultPc = pc0 := rfl
@[simp] theorem enterFault_faultWord : (s.enterFault code pc0 w).faultWord = w := rfl
@[simp] theorem enterFault_cfg : (s.enterFault code pc0 w).cfg = s.cfg := rfl
@[simp] theorem enterFault_inputs : (s.enterFault code pc0 w).inputs = s.inputs := rfl
@[simp] theorem enterFault_tick : (s.enterFault code pc0 w).tick = s.tick := rfl
@[simp] theorem enterFault_rand : (s.enterFault code pc0 w).rand = s.rand := rfl
@[simp] theorem enterFault_diag : (s.enterFault code pc0 w).diag = s.diag := rfl
@[simp] theorem enterFault_getV (r : Reg) : (s.enterFault code pc0 w).getV r = s.getV r := rfl
@[simp] theorem enterFault_readByte (p : Nat) : (s.enterFault code pc0 w).readByte p = s.readByte p := rfl
@[simp] theorem enterFault_cell (c r : Nat) : (s.enterFault code pc0 w).cell c r = s.cell c r := rfl
@[simp] theorem enterFault_pressed (k : Reg) : (s.enterFault code pc0 w).pressed k = s.pressed k := rfl
@[simp] theorem enterFault_unlisted : (s.enterFault code pc0 w).unlisted = s.unlisted := rfl

end

/-! ### setDiag -/

section
variable (s : State) (d : Option Diag)

@[simp] theorem setDiag_v : (s.setDiag d).v = s.v := rfl
@[simp] theorem setDiag_i : (s.setDiag d).i = s.i := rfl
@[simp] theorem setDiag_pc : (s.setDiag d).pc = s.pc := rfl
@[simp] theorem setDiag_sp : (s.setDiag d).sp = s.sp := rfl
@[simp] theorem setDiag_stack : (s.setDiag d).stack = s.stack := rfl
@[simp] theorem setDiag_dt : (s.setDiag d).dt = s.dt := rfl
@[simp] theorem setDiag_st : (s.setDiag d).st = s.st := rfl
@[simp] theorem setDiag_waiting : (s.setDiag d).waiting = s.waiting := rfl
@[simp] theorem setDiag_waitX : (s.setDiag d).waitX = s.waitX := rfl
@[simp] theorem setDiag_mem : (s.setDiag d).mem = s.mem := rfl
@[simp] theorem setDiag_fb : (s.setDiag d).fb = s.fb := rfl
@[simp] theorem setDiag_key : (s.setDiag d).key = s.key := rfl
@[simp] theorem setDiag_faulted : (s.setDiag d).faulted = s.faulted := rfl
@[simp] theorem setDiag_faultCode : (s.setDiag d).faultCode = s.faultCode := rfl
@[simp] theorem setDiag_faultPc : (s.setDiag d).faultPc = s.faultPc := rfl
@[simp] theorem setDiag_faultWord : (s.setDiag d).faultWord = s.faultWord := rfl
@[simp] theorem setDiag_cfg : (s.setDiag d).cfg = s.cfg := rfl
@[simp] theorem setDiag_inputs : (s.setDiag d).inputs = s.inputs := rfl
@[simp] theorem setDiag_tick : (s.setDiag d).tick = s.tick := rfl
@[simp] theorem setDiag_rand : (s.setDiag d).rand = s.rand := rfl
@[simp] theorem setDiag_diag : (s.setDiag d).diag = d := rfl
@[simp] theorem setDiag_getV (r : Reg) : (s.setDiag d).getV r = s.getV r := rfl
@[simp] theorem setDiag_readByte (p : Nat) : (s.setDiag d).readByte p = s.readByte p := rfl
@[simp] theorem setDiag_cell (c r : Nat) : (s.setDiag d).cell c r = s.cell c r := rfl
@[simp] theorem setDiag_pressed (k : Reg) : (s.setDiag d).pressed k = s.pressed k := rfl
@[simp] theorem setDiag_unlisted : (s.setDiag d).unlisted = s.unlisted := rfl

end

/-! ### samplePhase -/

section
variable (s : State) (keys : BitVec 16) (rand : Byte)

@[simp] theorem samplePhase_v : (s.samplePhase keys rand).v = s.v := rfl
@[simp] theorem samplePhase_i : (s.samplePhase keys rand).i = s.i := rfl
@[simp] theorem samplePhase_pc : (s.samplePhase keys rand).pc = s.pc := rfl
@[simp] theorem samplePhase_sp : (s.samplePhase keys rand).sp = s.sp := rfl
@[simp] theorem samplePhase_stack : (s.samplePhase keys rand).stack = s.stack := rfl
@[simp] theorem samplePhase_dt : (s.samplePhase keys rand).dt = s.dt := rfl
@[simp] theorem samplePhase_st : (s.samplePhase keys rand).st = s.st := rfl
@[simp] theorem samplePhase_waiting : (s.samplePhase keys rand).waiting = s.waiting := rfl
@[simp] theorem samplePhase_waitX : (s.samplePhase keys rand).waitX = s.waitX := rfl
@[simp] theorem samplePhase_mem : (s.samplePhase keys rand).mem = s.mem := rfl
@[simp] theorem samplePhase_fb : (s.samplePhase keys rand).fb = s.fb := rfl
@[simp] theorem samplePhase_key : (s.samplePhase keys rand).key = keys := rfl
@[simp] theorem samplePhase_faulted : (s.samplePhase keys rand).faulted = s.faulted := rfl
@[simp] theorem samplePhase_faultCode : (s.samplePhase keys rand).faultCode = s.faultCode := rfl
@[simp] theorem samplePhase_faultPc : (s.samplePhase keys rand).faultPc = s.faultPc := rfl
@[simp] theorem samplePhase_faultWord : (s.samplePhase keys rand).faultWord = s.faultWord := rfl
@[simp] theorem samplePhase_cfg : (s.samplePhase keys rand).cfg = s.cfg := rfl
@[simp] theorem samplePhase_inputs : (s.samplePhase keys rand).inputs = s.inputs := rfl
@[simp] theorem samplePhase_tick : (s.samplePhase keys rand).tick = s.tick := rfl
@[simp] theorem samplePhase_rand : (s.samplePhase keys rand).rand = rand := rfl
@[simp] theorem samplePhase_diag : (s.samplePhase keys rand).diag = none := rfl
@[simp] theorem samplePhase_getV (r : Reg) : (s.samplePhase keys rand).getV r = s.getV r := rfl
@[simp] theorem samplePhase_readByte (p : Nat) : (s.samplePhase keys rand).readByte p = s.readByte p := rfl
@[simp] theorem samplePhase_cell (c r : Nat) : (s.samplePhase keys rand).cell c r = s.cell c r := rfl
@[simp] theorem samplePhase_unlisted : (s.samplePhase keys rand).unlisted = s.unlisted := rfl

end

/-! ### takeInput -/

section
variable (s : State)

@[simp] theorem takeInput_v : s.takeInput.v = s.v := rfl
@[simp] theorem takeInput_i : s.takeInput.i = s.i := rfl
@[simp] theorem takeInput_pc : s.takeInput.pc = s.pc := rfl
@[simp] theorem takeInput_sp : s.takeInput.sp = s.sp := rfl
@[simp] theorem takeInput_stack : s.takeInput.stack = s.stack := rfl
@[simp] theorem takeInput_dt : s.takeInput.dt = s.dt := rfl
@[simp] theorem takeInput_st : s.takeInput.st = s.st := rfl
@[simp] theorem takeInput_waiting : s.takeInput.waiting = s.waiting := rfl
@[simp] theorem takeInput_waitX : s.takeInput.waitX = s.waitX := rfl
@[simp] theorem takeInput_mem : s.takeInput.mem = s.mem := rfl
@[simp] theorem takeInput_fb : s.takeInput.fb = s.fb := rfl
@[simp] theorem takeInput_key : s.takeInput.key = s.key := rfl
@[simp] theorem takeInput_faulted : s.takeInput.faulted = s.faulted := rfl
@[simp] theorem takeInput_faultCode : s.takeInput.faultCode = s.faultCode := rfl
@[simp] theorem takeInput_faultPc : s.takeInput.faultPc = s.faultPc := rfl
@[simp] theorem takeInput_faultWord : s.takeInput.faultWord = s.faultWord := rfl
@[simp] theorem takeInput_cfg : s.takeInput.cfg = s.cfg := rfl
@[simp] theorem takeInput_inputs : s.takeInput.inputs = s.inputs.tail := rfl
@[simp] theorem takeInput_tick : s.takeInput.tick = s.tick + 1 := rfl
@[simp] theorem takeInput_rand : s.takeInput.rand = s.rand := rfl
@[simp] theorem takeInput_diag : s.takeInput.diag = s.diag := rfl
@[simp] theorem takeInput_getV (r : Reg) : s.takeInput.getV r = s.getV r := rfl
@[simp] theorem takeInput_readByte (p : Nat) : s.takeInput.readByte p = s.readByte p := rfl
@[simp] theorem takeInput_cell (c r : Nat) : s.takeInput.cell c r = s.cell c r := rfl
@[simp] theorem takeInput_pressed (k : Reg) : s.takeInput.pressed k = s.pressed k := rfl
@[simp] theorem takeInput_unlisted : s.takeInput.unlisted = s.unlisted := rfl

end

/-! ### Composite updates -/

section
variable (s : State)

@[simp] theorem advance_eq : s.advance = s.setPc (s.pc + 2#16) := rfl
@[simp] theorem writeByte_eq (a : Nat) (x : Byte) : s.writeByte a x = s.setMem (Memory.write s.unlisted s.mem a x) := rfl
@[simp] theorem writeBytes_eq (n a : Nat) (xs : List Byte) :
    s.writeBytes n a xs = s.setMem (Memory.writeBlock s.unlisted n s.mem a xs) := rfl
@[simp] theorem skipIf_true : s.skipIf true = s.advance := rfl
@[simp] theorem skipIf_false : s.skipIf false = s := rfl
@[simp] theorem raise_eq (code : FaultCode) (i : Instr) :
    s.raise code i = s.enterFault code (s.pc - 2#16) (encode i) := rfl
@[simp] theorem writeFlagged_eq (x : Reg) (f : Bool) (b : Byte) :
    s.writeFlagged x f b = (s.setV VF (flagByte f)).setV x b := rfl
@[simp] theorem timerPhase_eq : s.timerPhase = (s.setDt (countDown s.dt)).setSt (countDown s.st) := rfl
@[simp] theorem startCycle_eq (keys : BitVec 16) (rand : Byte) :
    s.startCycle keys rand = s.timerPhase.samplePhase keys rand := rfl
@[simp] theorem frozenTick_eq : s.frozenTick = s.setDiag none := rfl
@[simp] theorem fetchFault_eq : s.fetchFault = s.enterFault .fetchRange s.pc 0x0000#16 := rfl
@[simp] theorem emitDiag_eq (w pc0 : Word) : s.emitDiag w pc0 = s.setDiag (some ⟨w, pc0⟩) := rfl

end

end Sys2Proof.Machine.State
end

