-- ==== Sys2Proof/Laws/Memory.lean ====
section
/-! SUPPORT. The laws of memory: a read after a write, and that every operation keeps the canonical form. -/

namespace Sys2Proof.Machine

variable {d : Nat → Byte}

/-- A canonical memory above `lo` is canonical above every smaller bound. -/
theorem Memory.wfFrom_mono {lo lo' : Nat} (h : lo' ≤ lo) {m : Memory} (hm : Memory.wfFrom d lo m = true) :
    Memory.wfFrom d lo' m = true := by
  cases m with
  | nil => rfl
  | cons c m =>
    simp only [Memory.wfFrom, Bool.and_eq_true, decide_eq_true_eq] at hm ⊢
    exact ⟨⟨⟨Nat.le_trans h hm.1.1.1, hm.1.1.2⟩, hm.1.2⟩, hm.2⟩

/-- Below its bound a canonical memory lists nothing. -/
theorem Memory.read_of_lt {lo a : Nat} {m : Memory} (hm : Memory.wfFrom d lo m = true) (h : a < lo) :
    Memory.read d m a = d a := by
  induction m generalizing lo with
  | nil => rfl
  | cons c m ih =>
    simp only [Memory.wfFrom, Bool.and_eq_true, decide_eq_true_eq] at hm
    rw [Memory.read, if_neg (by omega), ih hm.2 (by omega)]

/-- A write keeps the canonical form. -/
theorem Memory.wfFrom_write {lo a : Nat} {m : Memory} (x : Byte) (hm : Memory.wfFrom d lo m = true) (hlo : lo ≤ a)
    (ha : a ≤ topAddr) : Memory.wfFrom d lo (Memory.write d m a x) = true := by
  induction m generalizing lo with
  | nil =>
    by_cases hx : x = d a <;> simp [Memory.write, Memory.wfFrom, hx, hlo, inSpace, ha]
  | cons c m ih =>
    obtain ⟨b, u⟩ := c
    simp only [Memory.wfFrom, Bool.and_eq_true, decide_eq_true_eq] at hm
    obtain ⟨⟨⟨hb, hs⟩, hu⟩, hm⟩ := hm
    have hs' : b ≤ topAddr := by simpa [inSpace] using hs
    by_cases h1 : a < b
    · by_cases hx : x = d a
      · simp [Memory.write, h1, hx, Memory.wfFrom, hb, hs, bne_iff_ne.mp hu, hm]
      · simp [Memory.write, h1, hx, Memory.wfFrom, hlo, hs', bne_iff_ne.mp hu, hm, inSpace, ha, Nat.succ_le_of_lt h1]
    · by_cases h2 : a = b
      · subst h2
        by_cases hx : x = d a
        · simpa [Memory.write, hx] using Memory.wfFrom_mono (by omega) hm
        · simp [Memory.write, hx, Memory.wfFrom, hlo, inSpace, ha, hm]
      · simp [Memory.write, h1, h2, Memory.wfFrom, hb, hs, bne_iff_ne.mp hu, ih hm (by omega)]

/-- A read after a write gives the byte written at its address and leaves every other address alone. -/
theorem Memory.read_write {lo a : Nat} {m : Memory} (x : Byte) (b : Nat) (hm : Memory.wfFrom d lo m = true) :
    Memory.read d (Memory.write d m a x) b = if b = a then x else Memory.read d m b := by
  induction m generalizing lo with
  | nil =>
    by_cases hx : x = d a <;> by_cases hb : b = a <;> simp [Memory.write, Memory.read, hx, hb]
  | cons c m ih =>
    obtain ⟨e, u⟩ := c
    simp only [Memory.wfFrom, Bool.and_eq_true, decide_eq_true_eq] at hm
    obtain ⟨⟨⟨-, -⟩, -⟩, hm⟩ := hm
    have hlow : ∀ q, q < e + 1 → Memory.read d m q = d q := fun q hq => Memory.read_of_lt hm hq
    rcases Nat.lt_trichotomy a e with h | h | h
    · by_cases hx : x = d a <;> by_cases hb : b = a
      · subst hb; simp [Memory.write, h, hx, Memory.read, Nat.ne_of_lt h, hlow b (by omega)]
      all_goals simp [Memory.write, h, hx, Memory.read, hb]
    · subst h
      by_cases hx : x = d a <;> by_cases hb : b = a
      · subst hb; simp [Memory.write, hx, hlow b (by omega)]
      all_goals simp [Memory.write, hx, Memory.read, hb]
    · have h1 : ¬ a < e := by omega
      have h2 : ¬ a = e := by omega
      by_cases hb : b = e
      · subst hb; simp [Memory.write, h1, h2, Memory.read, Ne.symm h2]
      · simp [Memory.write, h1, h2, Memory.read, hb, ih hm]

/-- A block write keeps the canonical form where its addresses lie in the space. -/
theorem Memory.wf_writeBlock {n a : Nat} {m : Memory} (xs : List Byte) (hm : Memory.wf d m = true)
    (h : ∀ k, k < xs.length → a + n * k ≤ topAddr) : Memory.wf d (Memory.writeBlock d n m a xs) = true := by
  induction xs generalizing m a with
  | nil => exact hm
  | cons x xs ih =>
    refine ih (Memory.wfFrom_write x hm (Nat.zero_le a) (by simpa using h 0 (by simp))) fun k hk => ?_
    have := h (k + 1) (by simpa using hk)
    simp only [Nat.mul_add, Nat.mul_one] at this; omega

/-- What a block write puts where: byte `k` of the list at `a + n * k`, every other address alone. -/
theorem Memory.read_writeBlock {n a : Nat} {m : Memory} (xs : List Byte) (hn : 0 < n) (hm : Memory.wf d m = true)
    (h : ∀ k, k < xs.length → a + n * k ≤ topAddr) :
    (∀ k (hk : k < xs.length), Memory.read d (Memory.writeBlock d n m a xs) (a + n * k) = xs[k]) ∧
    ∀ b, (∀ k, k < xs.length → b ≠ a + n * k) →
      Memory.read d (Memory.writeBlock d n m a xs) b = Memory.read d m b := by
  induction xs generalizing m a with
  | nil => exact ⟨fun k hk => absurd hk (by simp), fun b _ => rfl⟩
  | cons x xs ih =>
    have ha : a ≤ topAddr := by simpa using h 0 (by simp)
    have hstep : ∀ k, k < xs.length → a + n + n * k ≤ topAddr := fun k hk => by
      have := h (k + 1) (by simpa using hk)
      simp only [Nat.mul_add, Nat.mul_one] at this; omega
    obtain ⟨hin, hout⟩ := ih (m := Memory.write d m a x) (Memory.wfFrom_write x hm (Nat.zero_le a) ha) hstep
    refine ⟨fun k hk => ?_, fun b hb => ?_⟩
    · cases k with
      | zero =>
        have := hout a (fun k _ => by omega)
        simpa [Memory.writeBlock, Memory.read_write x a hm] using this
      | succ k =>
        have := hin k (by simpa using hk)
        simpa [Memory.writeBlock, Nat.mul_add, Nat.add_comm, Nat.add_left_comm, Nat.add_assoc] using this
    · have h0 : b ≠ a := by simpa using hb 0 (by simp)
      have := hout b (fun k hk => by
        have := hb (k + 1) (by simpa using hk)
        simp only [Nat.mul_add, Nat.mul_one] at this; omega)
      simpa [Memory.writeBlock, Memory.read_write x b hm, h0] using this

/-- The bytes of a block read. -/
theorem Memory.getElem_readBlock (m : Memory) (n a k j : Nat) (h : j < (Memory.readBlock d m n a k).length) :
    (Memory.readBlock d m n a k)[j] = Memory.read d m (a + n * j) := by
  induction k generalizing a j with
  | zero => exact absurd h (by simp [Memory.readBlock])
  | succ k ih =>
    cases j with
    | zero => rfl
    | succ j =>
      simp only [Memory.readBlock, List.getElem_cons_succ, ih, Nat.mul_add, Nat.mul_one]
      congr 1; omega

@[simp] theorem Memory.length_readBlock (m : Memory) (n a k : Nat) : (Memory.readBlock d m n a k).length = k := by
  induction k generalizing a with
  | zero => rfl
  | succ k ih => simp [Memory.readBlock, ih]

/-- The memory of a reset state is canonical: it lists nothing. -/
theorem Memory.wf_nil : Memory.wf d [] = true := rfl

/-- A write of the machine keeps the canonical form. -/
theorem State.wf_writeByte (s : State) {a : Nat} (x : Byte) (h : Memory.wf s.unlisted s.mem = true)
    (ha : a ≤ topAddr) : Memory.wf (s.writeByte a x).unlisted (s.writeByte a x).mem = true :=
  Memory.wfFrom_write x h (Nat.zero_le a) ha

/-- A block write of the machine keeps the canonical form. -/
theorem State.wf_writeBytes (s : State) {n a : Nat} (xs : List Byte) (h : Memory.wf s.unlisted s.mem = true)
    (ha : ∀ k, k < xs.length → a + n * k ≤ topAddr) :
    Memory.wf (s.writeBytes n a xs).unlisted (s.writeBytes n a xs).mem = true :=
  Memory.wf_writeBlock xs h ha

/-- A successful program load keeps the canonical form (70_reset_and_hazards.md R253). -/
theorem State.wf_load (s t : State) (img : List Byte) (h : Memory.wf s.unlisted s.mem = true)
    (hl : s.load img = some t) : Memory.wf t.unlisted t.mem = true := by
  unfold State.load at hl
  split at hl
  case isTrue hlen =>
    obtain rfl := Option.some.inj hl
    exact s.wf_writeBytes img h (fun k hk => by simp only [topAddr]; omega)
  case isFalse => cases hl

/-- A write of the load port keeps the canonical form (10_state.md R43). -/
theorem State.wf_loadPort (s : State) (addr : Addr12) (x : Byte) (h : Memory.wf s.unlisted s.mem = true) :
    Memory.wf (s.loadPort addr x).unlisted (s.loadPort addr x).mem = true :=
  s.wf_writeByte x h (by have := addr.isLt; simp only [topAddr]; omega)

/-- Placing a word for the next fetch keeps the canonical form. -/
theorem State.wf_withFetchWord (s : State) (nbits w : Nat) (h : Memory.wf s.unlisted s.mem = true) :
    Memory.wf (s.withFetchWord nbits w).unlisted (s.withFetchWord nbits w).mem = true := by
  refine s.ready.wf_writeBytes _ h fun k hk => ?_
  have hk : k < 2 := by simpa [bytesOfWord] using hk
  have hp : s.ready.pc.toNat ≤ 0xFFE := by
    by_cases hf : s.fetchOut = true
    · simp [State.ready, hf]
    · simp only [State.fetchOut, decide_eq_true_eq, Nat.not_lt] at hf
      simpa [State.ready, State.fetchOut, Nat.not_lt.mpr hf] using hf
  simp only [topAddr]; omega

end Sys2Proof.Machine
end

