-- ==== Sys2Proof/Laws/Ops.lean ====
section
/-! SUPPORT. What each shared operation over registers, call stack, screen, latch and faults does, said once. -/

namespace Sys2Proof.Machine

/-! ### Registers -/

@[simp] theorem State.getV_setV (s : State) (x r : Reg) (b : Byte) :
    (s.setV x b).getV r = if r = x then b else s.getV r := by
  simp only [State.getV, State.setV_v, Fin.getElem_fin, Vector.getElem_set, Fin.ext_iff, eq_comm]

/-- Loading a list of bytes into the register file from register `j` on. -/
theorem loadRegs_getElem (v : Vector Byte 16) (j : Nat) (bs : List Byte) (k : Nat) (hk : k < 16) :
    (loadRegs v j bs)[k] = if h : j ≤ k ∧ k - j < bs.length then bs[k - j]'h.2 else v[k] := by
  induction bs generalizing v j with
  | nil => simp [loadRegs]
  | cons b bs ih =>
    rw [loadRegs, ih]
    by_cases hjk : j = k
    · subst hjk; simp
    · by_cases h : j + 1 ≤ k ∧ k - (j + 1) < bs.length
      · have h' : j ≤ k ∧ k - j < (b :: bs).length := by simp; omega
        have e : k - j = (k - (j + 1)) + 1 := by omega
        simp [h, h', e]
      · have h' : ¬ (j ≤ k ∧ k - j < (b :: bs).length) := by simp; omega
        rw [dif_neg h, dif_neg h']; simp [hjk]

/-- `V[j] <- bs[j]` for each byte of the list, and no other register. -/
theorem State.getV_setVs (s : State) (bs : List Byte) (r : Reg) :
    (s.setVs bs).getV r = if h : r.val < bs.length then bs[r.val] else s.getV r := by
  simp [State.getV, loadRegs_getElem]

/-- The bytes Fx55 stores are those of V[0], …, V[n-1]. -/
theorem State.firstVs_spec (s : State) (n : Nat) (hn : n ≤ 16) :
    (s.firstVs n).length = n ∧ ∀ k (hk : k < (s.firstVs n).length) (h16 : k < 16),
      (s.firstVs n)[k] = s.getV ⟨k, h16⟩ := by
  constructor
  · simp [State.firstVs]; omega
  · intro k hk h16; simp [State.firstVs, State.getV]

/-! ### Call stack -/

/-- A push and the pop after it meet: the slot read is the slot written. -/
theorem State.top_push (s : State) (a : Word) : (s.push a).top = a := by simp [State.top]

/-- A push writes no other slot. -/
theorem State.push_slot (s : State) (a : Word) (j : Fin 16) (h : j.val ≠ (s.sp + 1#4).toNat) :
    (s.push a).stack[j] = s.stack[j] := by
  simp only [State.push_stack, Fin.getElem_fin, Vector.getElem_set]
  rw [if_neg (fun e => h e.symm)]

/-! ### Screen -/

/-- `FB[c][r] <- FB[c][r] ^ bit` changes that cell and no other. -/
theorem FrameBuffer.cell_xorCell (fb : FrameBuffer) (c r c' r' : Nat) (bit : Bool) :
    (fb.xorCell c r bit).cell c' r' =
      (fb.cell c' r' ^^ (bit && decide (c' % 64 = c % 64 ∧ r' % 32 = r % 32))) := by
  have hc : c % 64 < 64 := Nat.mod_lt _ (by decide)
  by_cases hr : r' % 32 = r % 32
  · by_cases hcc : c' % 64 = c % 64 <;> cases bit <;>
      simp [FrameBuffer.cell, FrameBuffer.xorCell, hr, hcc, BitVec.getLsbD_twoPow, hc, eq_comm (a := c % 64)]
  · simp [FrameBuffer.cell, FrameBuffer.xorCell, hr, Vector.getElem_set_ne _ _ (Ne.symm hr)]

/-- Every cell of a cleared frame buffer is 0. -/
@[simp] theorem FrameBuffer.cell_clear (c r : Nat) : FrameBuffer.clear.cell c r = false := by
  simp [FrameBuffer.clear, FrameBuffer.cell]

/-! ### Latch -/

/-- The scan finds the lowest pressed key, or none is pressed. -/
theorem State.lowestPressed_some (s : State) (k : Reg) (h : s.lowestPressed = some k) :
    s.pressed k = true ∧ ∀ j : Reg, j < k → s.pressed j = false := by
  unfold State.lowestPressed at h
  rw [List.find?_eq_some_iff_getElem] at h
  obtain ⟨hp, n, hn, hk, hlow⟩ := h
  have hall : ∀ (n : Nat) (hn : n < scanOrder.length), (scanOrder[n]).val = n := by decide
  refine ⟨hp, fun j hj => ?_⟩
  have hkn : k.val = n := by rw [← hk]; exact hall n hn
  have hjl : j.val < scanOrder.length := by simp [scanOrder]
  have hj' : scanOrder[j.val] = j := Fin.ext (hall _ hjl)
  have hjn : j.val < n := by rw [← hkn]; exact hj
  simpa [hj'] using hlow j.val hjn

/-- Where the scan finds nothing, no key is pressed. -/
theorem State.lowestPressed_none (s : State) (h : s.lowestPressed = none) (k : Reg) : s.pressed k = false := by
  have hm : k ∈ scanOrder := by revert k; decide
  simpa using List.find?_eq_none.mp h k hm

/-! ### Fetch increment -/

/-- The address of an executing instruction is PC minus 2: taking the fetch increment back gives it exactly. -/
@[simp] theorem pc_advance_sub (a : Word) : a + 2#16 - 2#16 = a := by simp

/-! ### Decoded keys and flags -/

theorem keyIndex_eq (b : Byte) : keyIndex b = if h : b.toNat < 16 then some ⟨b.toNat, h⟩ else none := rfl

end Sys2Proof.Machine
end

