-- ==== Sys2Proof/Laws/Cycle.lean ====
section
/-! SUPPORT. What the phases of a cycle do, said once: the timers, the snapshot, the wake-up, and which of the three
states of the halt control a cycle takes which way (40_cycle_and_decode.md R100, 45_timers_input.md R200, R210). -/

namespace Sys2Proof.Machine

open Sys2Proof.Safety

/-- A timer counts down by one and stops at 0 (R200). -/
theorem countDown_eq (b : Byte) : countDown b = BitVec.ofNat 8 (b.toNat - 1) := by
  have := b.isLt
  unfold countDown; split
  · rename_i h
    apply BitVec.eq_of_toNat_eq
    have : b.toNat ≠ 0 := fun e => h (BitVec.eq_of_toNat_eq e)
    simp [BitVec.toNat_sub]; omega
  · rename_i h; simp only [ne_eq, Decidable.not_not] at h; subst h; rfl

/-- The timer and refresh phases together. -/
theorem State.startCycle_afterPhases (s : State) (keys : BitVec 16) (rand : Byte) :
    s.startCycle keys rand = afterPhases keys rand s := by
  simp only [afterPhases, ← countDown_eq]; rfl

/-- The fetch check compares PC with 0xFFE. -/
theorem State.fetchOut_iff (s : State) : s.fetchOut = true ↔ 0xFFE < s.pc.toNat := by simp [State.fetchOut]

/-- A running machine executes one word. -/
theorem cycle_running {s : State} (keys : BitVec 16) (rand : Byte) (h : Running s) :
    cycle keys rand s = executeOne (afterPhases keys rand s) := by
  simp only [cycle, h.1, h.2, State.startCycle_afterPhases]; rfl

/-- A waiting machine executes nothing and looks for a key. -/
theorem cycle_waiting {s : State} (keys : BitVec 16) (rand : Byte) (h : Waiting s) :
    cycle keys rand s = .next (afterPhases keys rand s).wake := by
  simp only [cycle, h.1, h.2, State.startCycle_afterPhases]; rfl

/-- A frozen machine does nothing. -/
theorem cycle_frozen {s : State} (keys : BitVec 16) (rand : Byte) (h : Frozen s) :
    cycle keys rand s = .next s.frozenTick := by
  simp only [cycle, show s.faulted = true from h]; rfl

/-- A step of a machine that is not frozen is a cycle with the next input. -/
theorem step_cycle {s : State} (h : s.faulted = false) :
    step s = cycle s.nextInput.keys s.nextInput.rand s.takeInput := by
  simp [step, h]

/-- The scan gives the key that is lowest. -/
theorem State.lowestPressed_of {s : State} {k : Reg} (h : LowestKey s.key k) : s.lowestPressed = some k := by
  cases hl : s.lowestPressed with
  | none => exact absurd (h.1.symm.trans (s.lowestPressed_none hl k)) (by decide)
  | some j =>
    have hj := s.lowestPressed_some j hl
    rcases lt_trichotomy j k with h1 | h1 | h1
    · exact absurd (hj.1.symm.trans (h.2 j h1)) (by decide)
    · rw [h1]
    · exact absurd (h.1.symm.trans (hj.2 k h1)) (by decide)

/-- The scan gives nothing where no key is pressed. -/
theorem State.lowestPressed_of_noKey {s : State} (h : NoKey s.key) : s.lowestPressed = none := by
  cases hl : s.lowestPressed with
  | none => rfl
  | some j => exact absurd ((s.lowestPressed_some j hl).1.symm.trans (h j)) (by decide)

end Sys2Proof.Machine
end

