-- ==== Sys2Proof/Laws/Decode.lean ====
section
/-! SUPPORT. The fields of the words the encoder builds, and the opcode table's rows. -/

namespace Sys2Proof

@[simp] theorem fieldOp_packNnn (op : Nat) (h : op < 16) (nnn : Addr12) : fieldOp (packNnn op nnn) = op := by
  have := nnn.isLt; simp [fieldOp, packNnn]; omega

@[simp] theorem fieldNnn_packNnn (op : Nat) (nnn : Addr12) : fieldNnn (packNnn op nnn) = nnn := by
  have := nnn.isLt; apply BitVec.eq_of_toNat_eq; simp [fieldNnn, packNnn]; omega

@[simp] theorem fieldOp_packXnn (op : Nat) (h : op < 16) (x : Reg) (nn : Byte) : fieldOp (packXnn op x nn) = op := by
  have := nn.isLt; have := x.isLt; simp [fieldOp, packXnn]; omega

@[simp] theorem fieldX_packXnn (op : Nat) (x : Reg) (nn : Byte) : fieldX (packXnn op x nn) = x := by
  have := nn.isLt; have := x.isLt; apply Fin.ext; simp [fieldX, packXnn]; omega

@[simp] theorem fieldCount_packXnn (op : Nat) (x : Reg) (nn : Byte) :
    fieldCount (packXnn op x nn) = BitVec.ofFin x := by
  have := nn.isLt; have := x.isLt; apply BitVec.eq_of_toNat_eq; simp [fieldCount, packXnn]; omega

@[simp] theorem fieldNn_packXnn (op : Nat) (x : Reg) (nn : Byte) : fieldNn (packXnn op x nn) = nn := by
  have := nn.isLt; have := x.isLt; apply BitVec.eq_of_toNat_eq; simp [fieldNn, packXnn]; omega

@[simp] theorem fieldOp_packXyn (op : Nat) (h : op < 16) (x y : Reg) (n : Nibble) :
    fieldOp (packXyn op x y n) = op := by
  have := n.isLt; have := x.isLt; have := y.isLt; simp [fieldOp, packXyn]; omega

@[simp] theorem fieldX_packXyn (op : Nat) (x y : Reg) (n : Nibble) : fieldX (packXyn op x y n) = x := by
  have := n.isLt; have := x.isLt; have := y.isLt; apply Fin.ext; simp [fieldX, packXyn]; omega

@[simp] theorem fieldY_packXyn (op : Nat) (x y : Reg) (n : Nibble) : fieldY (packXyn op x y n) = y := by
  have := n.isLt; have := x.isLt; have := y.isLt; apply Fin.ext; simp [fieldY, packXyn]; omega

@[simp] theorem fieldN_packXyn (op : Nat) (x y : Reg) (n : Nibble) : fieldN (packXyn op x y n) = n := by
  have := n.isLt; have := x.isLt; have := y.isLt; apply BitVec.eq_of_toNat_eq; simp [fieldN, packXyn]; omega

/-- The two bytes of a word make the word again. -/
@[simp] theorem wordOfBytes_hi_lo (w : Word) : wordOfBytes (hiByte w) (loByte w) = w := by
  have := w.isLt; apply BitVec.eq_of_toNat_eq; simp [wordOfBytes, hiByte, loByte]; omega

/-- The table has the 35 rows of R78. -/
theorem opcodeTable_length : opcodeTable.length = 35 := by decide

/-- No two rows of the table share a word (R75): where both masks fix a bit, some such bit differs. -/
theorem opcodeTable_disjoint :
    opcodeTable.Pairwise (fun r q => (r.pattern ^^^ q.pattern) &&& r.mask &&& q.mask ≠ 0#16) := by decide

/-- Every instruction's row is in the table. -/
theorem row_mem_opcodeTable (i : Instr) : i.row ∈ opcodeTable := by
  cases i <;> simp [Instr.row, opcodeTable, tableW, tableNnn, tableXnn, tableXy, tableXyn, tableXk]

/-- The decoder's two rejections, on bytes: too few bytes, and an unknown word. -/
theorem decodeBytes_short (b : Byte) : decodeBytes [b] = .truncated ∧ decodeBytes [] = .truncated := ⟨rfl, rfl⟩

end Sys2Proof
end

