-- ==== Sys2Proof/Laws/Draw.lean ====
section
/-! SUPPORT. What drawing does to every cell of the screen, in closed form (44_display.md R180, R182, R184). -/

namespace Sys2Proof.Machine

open scoped Classical

/-- The loop of `draw_row` over distinct positions below 8: each cell is XORed with the 1 bit that lands on it, and the flag
says whether a cell with a 1 bit was 1 before (R180). -/
theorem FrameBuffer.drawBits_spec (px py : Nat) (b : Byte) (ks : List Nat) (hk : ∀ k ∈ ks, k < 8) (hn : ks.Nodup) (fb : FrameBuffer) (hit : Bool) :
    (∀ c r, (FrameBuffer.drawBits px py b ks fb hit).1.cell c r =
      (fb.cell c r ^^ decide (r % 32 = py % 32 ∧ ∃ k ∈ ks, c % 64 = (px + k) % 64 ∧ spriteBit b k = true))) ∧
    ((FrameBuffer.drawBits px py b ks fb hit).2 = true ↔ hit = true ∨ ∃ k ∈ ks, fb.cell (px + k) py = true ∧ spriteBit b k = true) := by
  induction ks generalizing fb hit with
  | nil => simp [FrameBuffer.drawBits]
  | cons k ks ih =>
    have hk0 := hk k (by simp)
    have hks : ∀ j ∈ ks, j < 8 := fun j hj => hk j (by simp [hj])
    have hn' := List.nodup_cons.mp hn
    obtain ⟨h1, h2⟩ := ih hks hn'.2 (fb.xorCell (px + k) py (spriteBit b k)) (hit || (fb.cell (px + k) py && !(fb.xorCell (px + k) py (spriteBit b k)).cell (px + k) py))
    constructor
    · intro c r
      rw [FrameBuffer.drawBits, h1, FrameBuffer.cell_xorCell]
      by_cases hr : r % 32 = py % 32
      · by_cases hc : c % 64 = (px + k) % 64
        · have : ¬ ∃ j ∈ ks, c % 64 = (px + j) % 64 ∧ spriteBit b j = true := by
            rintro ⟨j, hj, e, -⟩
            have := hks j hj
            have : j = k := by omega
            subst this; exact hn'.1 hj
          have e : (∃ k_1 ∈ k :: ks, c % 64 = (px + k_1) % 64 ∧ spriteBit b k_1 = true) ↔ spriteBit b k = true := by
            constructor
            · rintro ⟨j, hj, e1, e2⟩
              rcases List.mem_cons.mp hj with h | h
              · rwa [h] at e2
              · exact absurd ⟨j, h, e1, e2⟩ this
            · intro h; exact ⟨k, by simp, hc, h⟩
          have hd : decide (c % 64 = (px + k) % 64 ∧ r % 32 = py % 32) = true := by simp [hc, hr]
          rw [hd]
          simp only [hr, e, this, true_and, decide_false, Bool.xor_false, Bool.and_true, Bool.decide_eq_true]
        · simp [hr, hc]
      · simp [hr]
    · rw [FrameBuffer.drawBits, h2, FrameBuffer.cell_xorCell]
      have hcell : ∀ j ∈ ks, (fb.xorCell (px + k) py (spriteBit b k)).cell (px + j) py = fb.cell (px + j) py := by
        intro j hj
        have := hks j hj
        have hne : j ≠ k := fun e => hn'.1 (e ▸ hj)
        have : ¬ (px + j) % 64 = (px + k) % 64 := by omega
        simp [FrameBuffer.cell_xorCell, this]
      have : (∃ j ∈ ks, (fb.xorCell (px + k) py (spriteBit b k)).cell (px + j) py = true ∧ spriteBit b j = true) ↔ ∃ j ∈ ks, fb.cell (px + j) py = true ∧ spriteBit b j = true := by
        constructor
        · rintro ⟨j, hj, a, c⟩; exact ⟨j, hj, by rwa [hcell j hj] at a, c⟩
        · rintro ⟨j, hj, a, c⟩; exact ⟨j, hj, by rwa [hcell j hj], c⟩
      rw [this]
      cases h5 : fb.cell (px+k) py <;> cases h6 : spriteBit b k <;> simp [h5, h6]

/-- `draw_row` (R180): every cell of the row is XORed with the bit that lands on it; the row collides exactly when a 1 bit
lands on a 1 cell. -/
theorem FrameBuffer.drawRow_spec (fb : FrameBuffer) (px py : Nat) (b : Byte) :
    (∀ c r, (fb.drawRow px py b).1.cell c r =
      (fb.cell c r ^^ decide (r % 32 = py % 32 ∧ ∃ k, k < 8 ∧ c % 64 = (px + k) % 64 ∧ spriteBit b k = true))) ∧
    ((fb.drawRow px py b).2 = true ↔ ∃ k, k < 8 ∧ fb.cell (px + k) py = true ∧ spriteBit b k = true) := by
  have hm : ∀ k, k ∈ [0,1,2,3,4,5,6,7] ↔ k < 8 := by intro k; simp; omega
  have := FrameBuffer.drawBits_spec px py b [0,1,2,3,4,5,6,7] (fun k hk => (hm k).mp hk) (by decide) fb false
  simp only [hm] at this
  unfold FrameBuffer.drawRow
  refine ⟨fun c r => by rw [this.1]; congr, by rw [this.2]; simp⟩

/-- A sprite of at most 15 rows (R184): its rows land on distinct rows of the screen, so that each cell is XORed with the
one bit that lands on it. -/
theorem FrameBuffer.drawRows_spec (px : Nat) (bs : List Byte) (py : Nat) (hl : bs.length ≤ 15) (fb : FrameBuffer) (hit : Bool) :
    (∀ c r, (FrameBuffer.drawRows px py bs fb hit).1.cell c r =
      (fb.cell c r ^^ decide (∃ j k, ∃ h : j < bs.length, k < 8 ∧ c % 64 = (px + k) % 64 ∧ r % 32 = (py + j) % 32 ∧ spriteBit bs[j] k = true))) ∧
    ((FrameBuffer.drawRows px py bs fb hit).2 = true ↔ hit = true ∨ ∃ j k, ∃ h : j < bs.length, k < 8 ∧ fb.cell (px + k) (py + j) = true ∧ spriteBit bs[j] k = true) := by
  induction bs generalizing py fb hit with
  | nil => simp [FrameBuffer.drawRows]
  | cons b bs ih =>
    have hl' : bs.length ≤ 14 := by simp at hl; omega
    obtain ⟨g1, g2⟩ := FrameBuffer.drawRow_spec fb px py b
    obtain ⟨h1, h2⟩ := ih (py + 1) (by omega) (fb.drawRow px py b).1 (hit || (fb.drawRow px py b).2)
    constructor
    · intro c r
      rw [FrameBuffer.drawRows, h1, g1]
      have e : (∃ j k, ∃ h : j < (b :: bs).length, k < 8 ∧ c % 64 = (px + k) % 64 ∧ r % 32 = (py + j) % 32 ∧ spriteBit (b :: bs)[j] k = true) ↔
         (r % 32 = py % 32 ∧ ∃ k, k < 8 ∧ c % 64 = (px + k) % 64 ∧ spriteBit b k = true) ∨
         (∃ j k, ∃ h : j < bs.length, k < 8 ∧ c % 64 = (px + k) % 64 ∧ r % 32 = (py + 1 + j) % 32 ∧ spriteBit bs[j] k = true) := by
        constructor
        · rintro ⟨j, k, hj, hk, a, e, f⟩
          cases j with
          | zero => exact .inl ⟨by simpa using e, k, hk, a, f⟩
          | succ j => exact .inr ⟨j, k, by simpa using hj, hk, a, by rw [e]; congr 1; omega, f⟩
        · rintro (⟨e, k, hk, a, f⟩ | ⟨j, k, hj, hk, a, e, f⟩)
          · exact ⟨0, k, by simp, hk, a, by simpa using e, f⟩
          · exact ⟨j+1, k, by simpa using hj, hk, a, by rw [e]; congr 1; omega, f⟩
      simp only [e]
      by_cases hr : r % 32 = py % 32
      · have : ¬ (∃ j k, ∃ h : j < bs.length, k < 8 ∧ c % 64 = (px + k) % 64 ∧ r % 32 = (py + 1 + j) % 32 ∧ spriteBit bs[j] k = true) := by
          rintro ⟨j, k, hj, hk, a, e, f⟩; omega
        simp only [this, or_false, decide_false, Bool.xor_false]
        congr
      · simp only [hr, false_and, false_or, decide_false, Bool.xor_false]
    · rw [FrameBuffer.drawRows, h2]
      have hcell : ∀ j k, j < bs.length → (fb.drawRow px py b).1.cell (px + k) (py + 1 + j) = fb.cell (px + k) (py + 1 + j) := by
        intro j k hj
        rw [g1]
        have : ¬ (py + 1 + j) % 32 = py % 32 := by omega
        simp [this]
      simp only [Bool.or_eq_true, g2]
      constructor
      · rintro ((h | ⟨k, hk, a, e⟩) | ⟨j, k, hj, hk, a, e⟩)
        · exact .inl h
        · exact .inr ⟨0, k, by simp, hk, by simpa using a, e⟩
        · exact .inr ⟨j+1, k, by simpa using hj, hk, by rw [hcell j k hj] at a; rw [← a]; congr 1; omega, e⟩
      · rintro (h | ⟨j, k, hj, hk, a, e⟩)
        · exact .inl (.inl h)
        · cases j with
          | zero => exact .inl (.inr ⟨k, hk, by simpa using a, e⟩)
          | succ j => exact .inr ⟨j, k, by simpa using hj, hk, by rw [hcell j k (by simpa using hj), ← a]; congr 1; omega, e⟩

end Sys2Proof.Machine
end

