-- ==== Sys2Proof/Laws/PerInstr.lean ====
section
/-! SUPPORT. Facts stated of every instruction, one lemma per constructor. Family `TableRow`: the encoder's word matches
the instruction's row of the opcode table (30_encoding.md R78). -/

namespace Sys2Proof

/-- A number's bits under the mask of the high nibble. -/
theorem and_F000 (w : Word) : w &&& 0xF000#16 = BitVec.ofNat 16 (fieldOp w * 4096) := by
  have hw := w.isLt
  have h : w.toNat &&& 0xF000 = w.toNat / 4096 * 4096 := by
    have : (0xF000 : Nat) = 15 <<< 12 := rfl
    rw [this, ← Nat.shiftRight_eq_div_pow w.toNat 12, ← Nat.shiftLeft_eq _ 12]
    apply Nat.eq_of_testBit_eq; intro i
    simp only [Nat.testBit_and, Nat.testBit_shiftLeft, Nat.testBit_shiftRight]
    by_cases hi : 12 ≤ i
    · have h15 : Nat.testBit 15 (i - 12) = decide (i - 12 < 4) := Nat.testBit_two_pow_sub_one 4 _
      by_cases h4 : i - 12 < 4
      · simp [hi, h15, h4]
      · have : w.toNat.testBit i = false := Nat.testBit_lt_two_pow (Nat.lt_of_lt_of_le hw (Nat.pow_le_pow_right (by decide) (by omega)))
        simp [hi, h15, h4, this]
    · simp [hi]
  apply BitVec.eq_of_toNat_eq
  simp only [BitVec.toNat_and, BitVec.toNat_ofNat, fieldOp]
  rw [show (61440 % 2 ^ 16) = 0xF000 from rfl, h]; omega

/-- A word's bits under a mask that keeps a low field too. -/
theorem and_F00F (w : Word) : w &&& 0xF00F#16 = BitVec.ofNat 16 (fieldOp w * 4096 + (fieldN w).toNat) := by
  have e : w &&& 0xF00F#16 = (w &&& 0xF000#16) ||| (w &&& 0x000F#16) := by
    rw [show (0xF00F#16) = 0xF000#16 ||| 0x000F#16 from rfl]
    apply BitVec.eq_of_getLsbD_eq; intro i hi; simp only [BitVec.getLsbD_and, BitVec.getLsbD_or]; cases w.getLsbD i <;> simp
  have l : w &&& 0x000F#16 = BitVec.ofNat 16 (fieldN w).toNat := by
    apply BitVec.eq_of_toNat_eq
    simp only [BitVec.toNat_and, fieldN, BitVec.extractLsb'_toNat, BitVec.toNat_ofNat]
    rw [show (15 % 2 ^ 16) = 2 ^ 4 - 1 from rfl, Nat.and_two_pow_sub_one_eq_mod]; omega
  rw [e, and_F000, l]
  have h1 := w.isLt
  have h2 := (fieldN w).isLt
  apply BitVec.eq_of_toNat_eq
  simp only [BitVec.toNat_or, BitVec.toNat_ofNat, fieldOp]
  rw [Nat.mod_eq_of_lt (by omega), Nat.mod_eq_of_lt (by omega), Nat.mod_eq_of_lt (by omega),
    show w.toNat / 4096 * 4096 = (w.toNat / 4096) <<< 12 from (Nat.shiftLeft_eq _ 12).symm,
    ← Nat.shiftLeft_add_eq_or_of_lt (by omega)]

/-- A word's bits under the mask of format XK. -/
theorem and_F0FF (w : Word) : w &&& 0xF0FF#16 = BitVec.ofNat 16 (fieldOp w * 4096 + (fieldNn w).toNat) := by
  have e : w &&& 0xF0FF#16 = (w &&& 0xF000#16) ||| (w &&& 0x00FF#16) := by
    rw [show (0xF0FF#16) = 0xF000#16 ||| 0x00FF#16 from rfl]
    apply BitVec.eq_of_getLsbD_eq; intro i hi; simp only [BitVec.getLsbD_and, BitVec.getLsbD_or]; cases w.getLsbD i <;> simp
  have l : w &&& 0x00FF#16 = BitVec.ofNat 16 (fieldNn w).toNat := by
    apply BitVec.eq_of_toNat_eq
    simp only [BitVec.toNat_and, fieldNn, BitVec.extractLsb'_toNat, BitVec.toNat_ofNat]
    rw [show (255 % 2 ^ 16) = 2 ^ 8 - 1 from rfl, Nat.and_two_pow_sub_one_eq_mod]; omega
  rw [e, and_F000, l]
  have h1 := w.isLt
  have h2 := (fieldNn w).isLt
  apply BitVec.eq_of_toNat_eq
  simp only [BitVec.toNat_or, BitVec.toNat_ofNat, fieldOp]
  rw [Nat.mod_eq_of_lt (by omega), Nat.mod_eq_of_lt (by omega), Nat.mod_eq_of_lt (by omega),
    show w.toNat / 4096 * 4096 = (w.toNat / 4096) <<< 12 from (Nat.shiftLeft_eq _ 12).symm,
    ← Nat.shiftLeft_add_eq_or_of_lt (by omega)]

namespace Laws.TableRow

/-- The encoder's word matches the instruction's row (R78). -/
def Statement (i : Instr) : Prop := i.row.covers (encode i) = true

theorem nop : Statement .nop := rfl

theorem cls : Statement .cls := rfl

theorem ret : Statement .ret := rfl

theorem jp (nnn : Addr12) : Statement (.jp nnn) := by
  simp [Statement, OpcodeRow.covers, Instr.row, encode, and_F000]

theorem call (nnn : Addr12) : Statement (.call nnn) := by
  simp [Statement, OpcodeRow.covers, Instr.row, encode, and_F000]

theorem seImm (x : Reg) (nn : Byte) : Statement (.seImm x nn) := by
  simp [Statement, OpcodeRow.covers, Instr.row, encode, and_F000]

theorem sneImm (x : Reg) (nn : Byte) : Statement (.sneImm x nn) := by
  simp [Statement, OpcodeRow.covers, Instr.row, encode, and_F000]

theorem seReg (x : Reg) (y : Reg) : Statement (.seReg x y) := by
  simp [Statement, OpcodeRow.covers, Instr.row, encode, and_F00F]

theorem ldImm (x : Reg) (nn : Byte) : Statement (.ldImm x nn) := by
  simp [Statement, OpcodeRow.covers, Instr.row, encode, and_F000]

theorem addImm (x : Reg) (nn : Byte) : Statement (.addImm x nn) := by
  simp [Statement, OpcodeRow.covers, Instr.row, encode, and_F000]

theorem ldReg (x : Reg) (y : Reg) : Statement (.ldReg x y) := by
  simp [Statement, OpcodeRow.covers, Instr.row, encode, and_F00F]

theorem orReg (x : Reg) (y : Reg) : Statement (.orReg x y) := by
  simp [Statement, OpcodeRow.covers, Instr.row, encode, and_F00F]

theorem andReg (x : Reg) (y : Reg) : Statement (.andReg x y) := by
  simp [Statement, OpcodeRow.covers, Instr.row, encode, and_F00F]

theorem xorReg (x : Reg) (y : Reg) : Statement (.xorReg x y) := by
  simp [Statement, OpcodeRow.covers, Instr.row, encode, and_F00F]

theorem addReg (x : Reg) (y : Reg) : Statement (.addReg x y) := by
  simp [Statement, OpcodeRow.covers, Instr.row, encode, and_F00F]

theorem subReg (x : Reg) (y : Reg) : Statement (.subReg x y) := by
  simp [Statement, OpcodeRow.covers, Instr.row, encode, and_F00F]

theorem shr (x : Reg) (y : Reg) : Statement (.shr x y) := by
  simp [Statement, OpcodeRow.covers, Instr.row, encode, and_F00F]

theorem subn (x : Reg) (y : Reg) : Statement (.subn x y) := by
  simp [Statement, OpcodeRow.covers, Instr.row, encode, and_F00F]

theorem shl (x : Reg) (y : Reg) : Statement (.shl x y) := by
  simp [Statement, OpcodeRow.covers, Instr.row, encode, and_F00F]

theorem sneReg (x : Reg) (y : Reg) : Statement (.sneReg x y) := by
  simp [Statement, OpcodeRow.covers, Instr.row, encode, and_F00F]

theorem ldI (nnn : Addr12) : Statement (.ldI nnn) := by
  simp [Statement, OpcodeRow.covers, Instr.row, encode, and_F000]

theorem jpV0 (nnn : Addr12) : Statement (.jpV0 nnn) := by
  simp [Statement, OpcodeRow.covers, Instr.row, encode, and_F000]

theorem rnd (x : Reg) (nn : Byte) : Statement (.rnd x nn) := by
  simp [Statement, OpcodeRow.covers, Instr.row, encode, and_F000]

theorem drw (x : Reg) (y : Reg) (n : Nibble) : Statement (.drw x y n) := by
  simp [Statement, OpcodeRow.covers, Instr.row, encode, and_F000]

theorem skp (x : Reg) : Statement (.skp x) := by
  simp [Statement, OpcodeRow.covers, Instr.row, encode, and_F0FF]

theorem sknp (x : Reg) : Statement (.sknp x) := by
  simp [Statement, OpcodeRow.covers, Instr.row, encode, and_F0FF]

theorem ldVxDt (x : Reg) : Statement (.ldVxDt x) := by
  simp [Statement, OpcodeRow.covers, Instr.row, encode, and_F0FF]

theorem ldVxK (x : Reg) : Statement (.ldVxK x) := by
  simp [Statement, OpcodeRow.covers, Instr.row, encode, and_F0FF]

theorem ldDtVx (x : Reg) : Statement (.ldDtVx x) := by
  simp [Statement, OpcodeRow.covers, Instr.row, encode, and_F0FF]

theorem ldStVx (x : Reg) : Statement (.ldStVx x) := by
  simp [Statement, OpcodeRow.covers, Instr.row, encode, and_F0FF]

theorem addI (x : Reg) : Statement (.addI x) := by
  simp [Statement, OpcodeRow.covers, Instr.row, encode, and_F0FF]

theorem ldF (x : Reg) : Statement (.ldF x) := by
  simp [Statement, OpcodeRow.covers, Instr.row, encode, and_F0FF]

theorem ldB (x : Reg) : Statement (.ldB x) := by
  simp [Statement, OpcodeRow.covers, Instr.row, encode, and_F0FF]

theorem ldMemVx (n : Nibble) : Statement (.ldMemVx n) := by
  simp [Statement, OpcodeRow.covers, Instr.row, encode, and_F0FF]

theorem ldVxMem (n : Nibble) : Statement (.ldVxMem n) := by
  simp [Statement, OpcodeRow.covers, Instr.row, encode, and_F0FF]

end Laws.TableRow

end Sys2Proof
end

