-- ==== Sys2Proof/Tests/Slice0.lean ====
section
/-! SUPPORT. The model's own tests. Every expected value is the spec's: its opcode table (30_encoding.md R78), its assembler
rule (R80), or the vector or program of 95_test_vectors.md that the comment names. Each machine test is one cycle on a
small state; the witnesses at the end show states and operands that meet each statement's hypotheses. -/

namespace Sys2Proof.Tests

open Sys2Proof.Machine Sys2Proof.Safety

/-! ### Helpers -/

/-- The machine of the tests: the reset state, in modern mode. -/
abbrev m0 : State := State.reset

/-- The reset state in legacy mode. -/
def lg : State := m0.rst true

/-- The reset state in legacy mode with LEGACY_BLOCK_ADDR = Running. -/
def lgRun : State := State.resetWith { lg.cfg with legacyBlockAddr := .running }

/-- The state of a result; no result of this machine is another kind. -/
def got : Result → State
  | .next s => s
  | .fault f => nomatch f
  | .refused _ => m0

/-- One cycle with the word at PC. -/
def tick (s : State) (w : Word) (keys : BitVec 16 := 0#16) (rand : Byte := 0#8) : State :=
  got (cycle keys rand (s.placeWord w))

/-- The state with another PC. -/
def atPc (a : Word) : State := m0.setPc a

/-- The state with another SP. -/
def withSp (s : State) (n : BitVec 4) : State := { s with sp := n }

/-- The state with another slot. -/
def withSlot (s : State) (j : Fin 16) (a : Word) : State := { s with stack := s.stack.set j a }

/-- The state with one cell turned over. -/
def withCell (s : State) (c r : Nat) : State := s.setFb (s.fb.xorCell c r true)

/-- Bytes of memory from an address on. -/
def bytes (s : State) (a n : Nat) : List Byte := s.readBytes 1 a n

/-! ### Ill-formed source lines are refused (R80) -/

/-- There is no V16. -/
theorem test_wf_regOk : (AsmLine.skp 16).wellFormed = false ∧ (AsmLine.skp 16).assemble = none := by decide

/-- Nor as the second register. -/
theorem test_wf_regOk_second :
    (AsmLine.addReg 1 16).assemble = none ∧ (AsmLine.addReg 1 15).assemble = some [0x81#8, 0xF4#8] := by decide

/-- `nnn` is 12 bits. -/
theorem test_wf_nnnOk :
    (AsmLine.jp 0x1000).wellFormed = false ∧ (AsmLine.jp 0xFFF).assemble = some [0x1F#8, 0xFF#8] := by decide

/-- `nn` is 8 bits. -/
theorem test_wf_nnOk :
    (AsmLine.ldImm 0 0x100).wellFormed = false ∧
    (AsmLine.ldImm 0 0xFF).assemble = some [0x60#8, 0xFF#8] := by decide

/-- `n` is 4 bits. -/
theorem test_wf_nOk :
    (AsmLine.drw 0 0 16).wellFormed = false ∧ (AsmLine.drw 0 0 15).assemble = some [0xD0#8, 0x0F#8] := by decide

/-- DW takes 16 bits, high byte first. -/
theorem test_wf_dw :
    (AsmLine.dw 0x10000).assemble = none ∧ (AsmLine.dw 0xABCD).assemble = some [0xAB#8, 0xCD#8] := by decide

/-- DB takes 8 bits. -/
theorem test_wf_db : (AsmLine.db 0x100).assemble = none ∧ (AsmLine.db 0x81).assemble = some [0x81#8] := by decide

/-! ### Decoding: a word written out from the row of every instruction (R78) -/

/-- nop, cls, ret. -/
theorem test_decode_w :
    decode 0x0000#16 = .instr (.nop) ∧
    decode 0x00E0#16 = .instr (.cls) ∧
    decode 0x00EE#16 = .instr (.ret) := by decide

/-- NNN. -/
theorem test_decode_nnn :
    decode 0x1ABC#16 = .instr (.jp 0xABC#12) ∧
    decode 0x2DEF#16 = .instr (.call 0xDEF#12) ∧
    decode 0xA123#16 = .instr (.ldI 0x123#12) ∧
    decode 0xB456#16 = .instr (.jpV0 0x456#12) := by decide

/-- XNN. -/
theorem test_decode_xnn :
    decode 0x3A5C#16 = .instr (.seImm 0xA 0x5C#8) ∧
    decode 0x4B6D#16 = .instr (.sneImm 0xB 0x6D#8) ∧
    decode 0x6C7E#16 = .instr (.ldImm 0xC 0x7E#8) ∧
    decode 0x7D8F#16 = .instr (.addImm 0xD 0x8F#8) ∧
    decode 0xCE90#16 = .instr (.rnd 0xE 0x90#8) := by decide

/-- XY. -/
theorem test_decode_xy :
    decode 0x5120#16 = .instr (.seReg 1 2) ∧
    decode 0x9340#16 = .instr (.sneReg 3 4) ∧
    decode 0x8560#16 = .instr (.ldReg 5 6) ∧
    decode 0x8781#16 = .instr (.orReg 7 8) ∧
    decode 0x89A2#16 = .instr (.andReg 9 0xA) ∧
    decode 0x8BC3#16 = .instr (.xorReg 0xB 0xC) := by decide

/-- XY with a flag. -/
theorem test_decode_xy_flag :
    decode 0x8DE4#16 = .instr (.addReg 0xD 0xE) ∧
    decode 0x8F05#16 = .instr (.subReg 0xF 0) ∧
    decode 0x8126#16 = .instr (.shr 1 2) ∧
    decode 0x8347#16 = .instr (.subn 3 4) ∧
    decode 0x856E#16 = .instr (.shl 5 6) := by decide

/-- XYN. -/
theorem test_decode_xyn :
    decode 0xD12F#16 = .instr (.drw 1 2 0xF#4) := by decide

/-- keys and timers. -/
theorem test_decode_xk :
    decode 0xE39E#16 = .instr (.skp 3) ∧
    decode 0xE4A1#16 = .instr (.sknp 4) ∧
    decode 0xF507#16 = .instr (.ldVxDt 5) ∧
    decode 0xF60A#16 = .instr (.ldVxK 6) ∧
    decode 0xF715#16 = .instr (.ldDtVx 7) ∧
    decode 0xF818#16 = .instr (.ldStVx 8) := by decide

/-- index and memory. -/
theorem test_decode_xk_mem :
    decode 0xF91E#16 = .instr (.addI 9) ∧
    decode 0xFA29#16 = .instr (.ldF 0xA) ∧
    decode 0xFB33#16 = .instr (.ldB 0xB) ∧
    decode 0xFC55#16 = .instr (.ldMemVx 0xC#4) ∧
    decode 0xFD65#16 = .instr (.ldVxMem 0xD#4) := by decide

/-- V-CY-2 to V-CY-7: words outside the table are unknown as themselves. -/
theorem test_decode_unknown :
    decode 0x8128#16 = .unknown 0x8128#16 ∧ decode 0x5121#16 = .unknown 0x5121#16 ∧
    decode 0x0123#16 = .unknown 0x0123#16 ∧ decode 0xE1FF#16 = .unknown 0xE1FF#16 ∧
    decode 0xF1FF#16 = .unknown 0xF1FF#16 ∧ decode 0x9121#16 = .unknown 0x9121#16 := by decide

/-- L1-15: the fields of 0xD123. -/
theorem test_fields :
    fieldNnn 0xD123#16 = 0x123#12 ∧ fieldN 0xD123#16 = 3#4 ∧ fieldX 0xD123#16 = 1 ∧ fieldY 0xD123#16 = 2 ∧
    fieldNn 0xD123#16 = 0x23#8 := by decide

/-- Bytes come high byte first; one byte is no instruction (R53, R70). -/
theorem test_decode_bytes :
    decodeBytes [0x6A#8, 0x3C#8, 0x01#8] = .instr (.ldImm 0xA 0x3C#8) [0x01#8] ∧
    decodeBytes [0x6A#8] = .truncated := by decide

/-! ### Programs of 95_test_vectors.md assembled to their images -/

/-- P1. -/
theorem test_assemble_p1 :
    assembleSource [.ldImm 0 5, .ldImm 1 0, .addImm 1 3, .addImm 0 0xFF, .seImm 0 0, .jp 0x204, .jp 0x20C] =
      some [0x60, 0x05, 0x61, 0x00, 0x71, 0x03, 0x70, 0xFF, 0x30, 0x00, 0x12, 0x04, 0x12, 0x0C] := by decide

/-- P2, whose filler is 0000. -/
theorem test_assemble_p2 :
    assembleSource [.ldI 0x300, .ldImm 0 0xFE, .call 0x210, .jp 0x206, .nop, .nop, .nop, .nop, .ldB 0, .ldVxMem 2,
      .ret] = some [0xA3, 0x00, 0x60, 0xFE, 0x22, 0x10, 0x12, 0x06, 0, 0, 0, 0, 0, 0, 0, 0, 0xF0, 0x33, 0xF2, 0x65,
        0x00, 0xEE] := by decide

/-- P3, which ends in data. -/
theorem test_assemble_p3 :
    assembleSource [.cls, .ldImm 0 60, .ldImm 1 31, .ldI 0x210, .drw 0 1 2, .drw 0 1 2, .jp 0x20C, .nop, .db 0xFF,
      .db 0x81] = some [0x00, 0xE0, 0x60, 0x3C, 0x61, 0x1F, 0xA2, 0x10, 0xD0, 0x12, 0xD0, 0x12, 0x12, 0x0C, 0x00, 0x00,
        0xFF, 0x81] := by decide

/-- P4. -/
theorem test_assemble_p4 :
    assembleSource [.ldVxK 3, .skp 3, .ldImm 5 1, .ldImm 6 2, .jp 0x208] =
      some [0xF3, 0x0A, 0xE3, 0x9E, 0x65, 0x01, 0x66, 0x02, 0x12, 0x08] := by decide

/-! ### Reset, load and the cycle -/

/-- L1-16, and R33's glyphs 0 and F. -/
theorem test_reset :
    m0.pc = 0x200#16 ∧ m0.dt = 0#8 ∧ m0.st = 0#8 ∧ bytes m0 0 5 = [0xF0, 0x90, 0x90, 0x90, 0xF0] ∧
    bytes m0 0x4B 6 = [0xF0, 0x80, 0xF0, 0x80, 0x80, 0] := by decide

/-- R253: the image stands at 0x200. -/
theorem test_load : (m0.load [0x60, 0x05]).map (fun s => bytes s 0x1FF 4) = some [0, 0x60, 0x05, 0] := by decide

/-- L1-17: an image of 3585 bytes is refused. -/
theorem test_load_refused : m0.load (List.replicate 3585 0#8) = none := by
  rw [State.load, List.length_replicate]; decide

/-- V-CY-1. -/
theorem test_nop :
    (tick (atPc 0x300#16) 0x0000#16).pc = 0x302#16 ∧ (tick (atPc 0x300#16) 0x0000#16).diagValid = false := by decide

/-- V-CY-2. -/
theorem test_unknown :
    (tick m0 0x8128#16).pc = 0x202#16 ∧ (tick m0 0x8128#16).diag = some ⟨0x8128#16, 0x200#16⟩ := by decide

/-- V-CY-8, first cycle. -/
theorem test_fetch_last_word :
    (tick (atPc 0xFFE#16) 0x0000#16).pc = 0x1000#16 ∧ (tick (atPc 0xFFE#16) 0x0000#16).faulted = false := by decide

/-- V-CY-9. -/
theorem test_fetch_fault :
    (got (cycle 0 0 (atPc 0xFFF#16))).faultCode.bits = 4#3 ∧ (got (cycle 0 0 (atPc 0xFFF#16))).faultPc = 0xFFF#16 ∧
    (got (cycle 0 0 (atPc 0xFFF#16))).pc = 0xFFF#16 := by decide

/-- V-CY-10. -/
theorem test_fetch_odd :
    (tick (atPc 0x201#16) 0x6011#16).getV 0 = 0x11#8 ∧ (tick (atPc 0x201#16) 0x6011#16).pc = 0x203#16 := by decide

/-- V-CY-11: a frozen machine keeps DT, the latch and PC. -/
theorem test_frozen :
    got (cycle 0x0008#16 0 ((m0.setDt 5#8).raise .memRange .nop)) = (m0.setDt 5#8).raise .memRange .nop := by decide

/-- A word placed for the next fetch is the one that runs. -/
theorem test_with_fetch_word :
    (got (step (m0.withFetchWord 16 0x6A3C))).getV 0xA = 0x3C#8 ∧
    decodeTableWord 16 0x6A3C = some (.ldImm 0xA 0x3C#8) := by decide

/-! ### Control transfer -/

/-- V-CF-1. -/
theorem test_ret :
    (tick (withSlot (withSp (atPc 0x210#16) 1#4) 1 0x206#16) 0x00EE#16).pc = 0x206#16 ∧
    (tick (withSp (atPc 0x210#16) 1#4) 0x00EE#16).sp = 0#4 := by decide

/-- V-CF-2. -/
theorem test_ret_underflow :
    (tick (atPc 0x210#16) 0x00EE#16).faultCode.bits = 2#3 ∧ (tick (atPc 0x210#16) 0x00EE#16).faultPc = 0x210#16 ∧
    (tick (atPc 0x210#16) 0x00EE#16).faultWord = 0x00EE#16 ∧
    (tick (atPc 0x210#16) 0x00EE#16).pc = 0x210#16 := by decide

/-- V-CF-3. -/
theorem test_jp : (tick m0 0x1ABC#16).pc = 0xABC#16 := by decide

/-- V-CF-5. -/
theorem test_call :
    (tick (atPc 0x204#16) 0x2300#16).sp = 1#4 ∧ (tick (atPc 0x204#16) 0x2300#16).stack[1] = 0x206#16 ∧
    (tick (atPc 0x204#16) 0x2300#16).pc = 0x300#16 := by decide

/-- V-CF-6. -/
theorem test_call_overflow :
    (tick (withSp (atPc 0x204#16) 15#4) 0x2300#16).faultCode.bits = 1#3 ∧
    (tick (withSp (atPc 0x204#16) 15#4) 0x2300#16).faultWord = 0x2300#16 ∧
    (tick (withSp (atPc 0x204#16) 15#4) 0x2300#16).pc = 0x204#16 := by decide

/-- V-CF-7, V-CF-8. -/
theorem test_seImm :
    (tick (m0.setV 3 0x42) 0x3342#16).pc = 0x204#16 ∧ (tick (m0.setV 3 0x41) 0x3342#16).pc = 0x202#16 := by decide

/-- V-CF-9, V-CF-10. -/
theorem test_sneImm :
    (tick (m0.setV 3 0x41) 0x4342#16).pc = 0x204#16 ∧ (tick (m0.setV 3 0x42) 0x4342#16).pc = 0x202#16 := by decide

/-- V-CF-11, and R125 where the registers differ. -/
theorem test_seReg :
    (tick ((m0.setV 1 7).setV 2 7) 0x5120#16).pc = 0x204#16 ∧
    (tick (m0.setV 1 7) 0x5120#16).pc = 0x202#16 := by decide

/-- V-CF-13, V-CF-14. -/
theorem test_sneReg :
    (tick ((m0.setV 1 7).setV 2 8) 0x9120#16).pc = 0x204#16 ∧
    (tick (m0.setV 1 7) 0x9110#16).pc = 0x202#16 := by decide

/-- V-CF-15, V-CF-16. -/
theorem test_jpV0 :
    (tick ((m0.setV 0 5).setV 2 0x10) 0xB2F0#16).pc = 0x300#16 ∧
    (tick ((lg.setV 0 5).setV 2 0x10) 0xB2F0#16).pc = 0x2F5#16 := by decide

/-- V-CF-17, first cycle. -/
theorem test_jpV0_past_the_end : (tick (lg.setV 0 0xFF) 0xBFFF#16).pc = 0x10FE#16 := by decide

/-! ### Datapath -/

/-- V-ALU-1. -/
theorem test_ldImm : (tick m0 0x6A3C#16).getV 0xA = 0x3C := by decide

/-- V-ALU-2. -/
theorem test_addImm :
    (tick ((m0.setV 1 0xFF).setV VF 0x5A) 0x7101#16).getV 1 = 0 ∧
    (tick ((m0.setV 1 0xFF).setV VF 0x5A) 0x7101#16).getV VF = 0x5A := by decide

/-- V-ALU-4. -/
theorem test_ldReg :
    (tick (m0.setV 2 0x55) 0x8120#16).getV 1 = 0x55 ∧ (tick (m0.setV 2 0x55) 0x8120#16).getV 2 = 0x55 := by decide

/-- V-ALU-5. -/
theorem test_orReg :
    (tick (((m0.setV 1 0xF0).setV 2 0x0F).setV VF 0x77) 0x8121#16).getV 1 = 0xFF ∧
    (tick (m0.setV VF 0x77) 0x8121#16).getV VF = 0x77 := by decide

/-- V-ALU-6. -/
theorem test_andReg : (tick ((m0.setV 1 0xF0).setV 2 0x3C) 0x8122#16).getV 1 = 0x30 := by decide

/-- V-ALU-7, V-ALU-8. -/
theorem test_xorReg :
    (tick ((m0.setV 1 0xF0).setV 2 0x3C) 0x8123#16).getV 1 = 0xCC ∧
    (tick (m0.setV 1 0x9A) 0x8113#16).getV 1 = 0 := by decide

/-- L1-5, V-ALU-10. -/
theorem test_addReg :
    (tick ((m0.setV 1 0xFF).setV 2 2) 0x8124#16).getV 1 = 1 ∧
    (tick ((m0.setV 1 0xFF).setV 2 2) 0x8124#16).getV VF = 1 ∧
    (tick (m0.setV 1 0x7F) 0x8114#16).getV VF = 0 := by decide

/-- V-ALU-x=F-1, V-ALU-11. -/
theorem test_addReg_vf :
    (tick ((m0.setV VF 0x80).setV 1 0x80) 0x8F14#16).getV VF = 0 ∧
    (tick ((m0.setV 1 0x10).setV VF 1) 0x81F4#16).getV 1 = 0x11 := by decide

/-- L1-7, V-ALU-12. -/
theorem test_subReg :
    (tick ((m0.setV 1 5).setV 2 0xA) 0x8125#16).getV 1 = 0xFB ∧
    (tick ((m0.setV 1 5).setV 2 0xA) 0x8125#16).getV VF = 0 ∧
    (tick (m0.setV 1 0x33) 0x8115#16).getV VF = 1 := by decide

/-- V-ALU-x=F-2. -/
theorem test_subReg_vf : (tick ((m0.setV VF 5).setV 1 1) 0x8F15#16).getV VF = 4 := by decide

/-- V-ALU-13, V-ALU-15. -/
theorem test_shr :
    (tick (m0.setV 1 5) 0x8106#16).getV 1 = 2 ∧ (tick (m0.setV 1 5) 0x8106#16).getV VF = 1 ∧
    (tick (lg.setV 2 5) 0x8126#16).getV 1 = 2 := by decide

/-- V-ALU-x=F-3, V-ALU-x=F-7. -/
theorem test_shr_vf :
    (tick (m0.setV VF 6) 0x8F06#16).getV VF = 3 ∧ (tick (lg.setV VF 7) 0x82F6#16).getV 2 = 3 ∧
    (tick (lg.setV VF 7) 0x82F6#16).getV VF = 1 := by decide

/-- V-ALU-16, V-ALU-17. -/
theorem test_subn :
    (tick ((m0.setV 1 0xA).setV 2 5) 0x8127#16).getV 1 = 0xFB ∧
    (tick ((m0.setV 1 0xA).setV 2 5) 0x8127#16).getV VF = 0 ∧
    (tick ((m0.setV 1 5).setV 2 0xA) 0x8127#16).getV VF = 1 := by decide

/-- V-ALU-x=F-5. -/
theorem test_subn_vf : (tick ((m0.setV VF 5).setV 1 0xA) 0x8F17#16).getV VF = 5 := by decide

/-- V-ALU-19, V-ALU-21. -/
theorem test_shl :
    (tick (m0.setV 1 0x81) 0x810E#16).getV 1 = 2 ∧ (tick (m0.setV 1 0x81) 0x810E#16).getV VF = 1 ∧
    (tick ((lg.setV 1 0xFF).setV 2 0x40) 0x812E#16).getV 1 = 0x80 := by decide

/-- V-ALU-x=F-4, V-ALU-21. -/
theorem test_shl_vf :
    (tick (m0.setV VF 0x81) 0x8F0E#16).getV VF = 2 ∧
    (tick ((lg.setV 1 0xFF).setV 2 0x40) 0x812E#16).getV VF = 0 := by decide

/-- V-ALU-22, V-ALU-24. -/
theorem test_rnd : (tick m0 0xC30F#16 0 0xA7).getV 3 = 7 ∧ (tick m0 0xC3FF#16 0 0x5A).getV 3 = 0x5A := by decide

/-! ### Index and memory -/

/-- V-IM-1. -/
theorem test_ldI : (tick m0 0xA2F0#16).i = 0x2F0#16 := by decide

/-- V-IM-3, V-IM-2. -/
theorem test_addI :
    (tick ((m0.setI 0x3E0).setV 0 9) 0xF01E#16).i = 0x3E9#16 ∧
    (tick ((m0.setI 0x3E0).setV 0 9) 0xF01E#16).getV VF = 1 ∧
    (tick (((m0.setI 0x3E0).setV 0 8).setV VF 0x55) 0xF01E#16).getV VF = 0x55 := by decide

/-- V-IM-5, V-IM-4. -/
theorem test_addI_vf :
    (tick ((m0.setI 0x3E0).setV VF 0x10) 0xFF1E#16).i = 0x3F0#16 ∧
    (tick ((m0.setI 0x3E0).setV VF 0x10) 0xFF1E#16).getV VF = 1 ∧
    (tick ((m0.setI 0xFFFA).setV 0 0x10) 0xF01E#16).i = 0xA#16 := by decide

/-- V-IM-6, V-IM-8. -/
theorem test_ldF :
    (tick (m0.setV 0 0xA) 0xF029#16).i = 0x32#16 ∧ (tick (m0.setV 0 0xFF) 0xF029#16).i = 0x4FB#16 := by decide

/-- V-IM-10, V-IM-11. -/
theorem test_ldB :
    bytes (tick ((m0.setV 0 255).setI 0x300) 0xF033#16) 0x300 3 = [2, 5, 5] ∧
    bytes (tick ((m0.setV 0 100).setI 0xFFD) 0xF033#16) 0xFFD 3 = [1, 0, 0] := by decide

/-- V-IM-12. -/
theorem test_ldB_fault :
    (tick (m0.setI 0xFFE) 0xF033#16).faultCode.bits = 3#3 ∧ (tick (m0.setI 0xFFE) 0xF033#16).faultPc = 0x200#16 ∧
    (tick (m0.setI 0xFFE) 0xF033#16).mem = (m0.placeWord 0xF033#16).mem := by decide

/-- The start of V-IM-14: I = 0x300, V0 = 1, V1 = 2, V2 = 3, V3 = 9. -/
def im14 (s : State) : State := ((((s.setI 0x300).setV 0 1).setV 1 2).setV 2 3).setV 3 9

/-- V-IM-14, V-IM-15. -/
theorem test_ldMemVx :
    bytes (tick (im14 m0) 0xF355#16) 0x300 4 = [1, 2, 3, 0] ∧ (tick (im14 m0) 0xF355#16).i = 0x300#16 ∧
    (tick (im14 lg) 0xF355#16).i = 0x303#16 := by decide

/-- V-IM-16, V-IM-18, V-IM-19. -/
theorem test_ldMemVx_bounds :
    bytes (tick (im14 lgRun) 0xF355#16) 0x300 5 = [1, 0, 2, 0, 3] ∧
    (tick (m0.setI 0xFF1) 0xFF55#16).faulted = false ∧
    (tick (m0.setI 0xFF2) 0xFF55#16).faultCode.bits = 3#3 := by decide

/-- V-IM-21. -/
theorem test_ldVxMem : ((tick m0 0xF565#16).firstVs 6) = [0xF0, 0x90, 0x90, 0x90, 0xF0, 0] := by decide

/-- V-IM-20. -/
theorem test_ldVxMem_count :
    (tick (((m0.writeBytes 1 0x300 [2, 5, 7]).setI 0x300).setV 2 0x99) 0xF265#16).firstVs 3 = [2, 5, 0x99] := by decide

/-! ### Display -/

/-- The start of L1-9 and the V-FB vectors: a byte at 0x300, I = 0x300. -/
def sprite (b : Byte) : State := (m0.writeByte 0x300 b).setI 0x300

/-- The cells of a row that are set. -/
def rowBits (s : State) (r : Nat) : List Nat := (List.range 64).filter (fun c => s.cell c r)

/-- V-FB-1. -/
theorem test_cls :
    (tick ((withCell m0 5 9).setV VF 7) 0x00E0#16).cell 5 9 = false ∧
    (tick ((withCell m0 5 9).setV VF 7) 0x00E0#16).getV VF = 7 := by decide

/-- L1-11. -/
theorem test_drw_wraps :
    rowBits (tick ((sprite 0xFF).setV 0 60) 0xD011#16) 0 = [0, 1, 2, 3, 60, 61, 62, 63] ∧
    (tick ((sprite 0xFF).setV 0 60) 0xD011#16).getV VF = 0 := by decide

/-- V-FB-8. -/
theorem test_drw_collides :
    (tick (withCell (withCell (sprite 0x40) 0 0) 1 0) 0xD001#16).getV VF = 1 ∧
    rowBits (tick (withCell (withCell (sprite 0x40) 0 0) 1 0) 0xD001#16) 0 = [0] := by decide

/-! ### Timers and input -/

/-- V-TI-1, third cycle. -/
theorem test_ldVxDt : (tick (m0.setDt 3) 0xF107#16).getV 1 = 2 ∧ (tick (m0.setDt 3) 0xF107#16).dt = 2#8 := by decide

/-- V-TI-1, second cycle. -/
theorem test_ldDtVx : (tick (m0.setV 0 3) 0xF015#16).dt = 3#8 := by decide

/-- V-TI-2. -/
theorem test_ldStVx : (tick (m0.setV 1 0x10) 0xF118#16).stOut = 0x10#8 := by decide

/-- V-TI-4, V-TI-5. -/
theorem test_timers :
    (tick (m0.setDt 5) 0x0000#16).dt = 4#8 ∧ (tick m0 0x0000#16).dt = 0#8 ∧
    (tick m0 0x0000#16).st = 0#8 := by decide

/-- V-TI-6, V-TI-7. -/
theorem test_skp :
    (tick ((atPc 0x202#16).setV 3 7) 0xE39E#16 0x0080#16).pc = 0x206#16 ∧
    (tick ((atPc 0x202#16).setV 3 7) 0xE39E#16).pc = 0x204#16 := by decide

/-- V-TI-9. -/
theorem test_skp_fault :
    (tick (m0.setV 3 0x10) 0xE39E#16).faultCode.bits = 5#3 ∧
    (tick (m0.setV 3 0x10) 0xE39E#16).faultWord = 0xE39E#16 := by decide

/-- V-TI-8, V-TI-10. -/
theorem test_sknp :
    (tick ((atPc 0x202#16).setV 3 7) 0xE3A1#16).pc = 0x206#16 ∧
    (tick (m0.setV 3 0x10) 0xE3A1#16).faultCode.bits = 5#3 := by decide

/-- V-TI-11. -/
theorem test_ldVxK :
    (tick m0 0xF50A#16 0x0208#16).getV 5 = 3 ∧ (tick m0 0xF50A#16 0x0208#16).waiting = false ∧
    (tick m0 0xF50A#16 0x0208#16).pc = 0x202#16 := by decide

/-- V-TI-12. -/
theorem test_ldVxK_waits :
    (tick m0 0xF50A#16).waiting = true ∧ (tick m0 0xF50A#16).waitX = 5 ∧
    (tick m0 0xF50A#16).pc = 0x202#16 := by decide

/-- V-TI-14. -/
theorem test_wake :
    (got (cycle 0x5000#16 0 ((atPc 0x202#16).startWait 0xF))).getV VF = 0xC ∧
    (got (cycle 0x5000#16 0 ((atPc 0x202#16).startWait 0xF))).waiting = false ∧
    (got (cycle 0x5000#16 0 ((atPc 0x202#16).startWait 0xF))).pc = 0x202#16 := by decide

/-! ### Witnesses: for each statement with hypotheses, states and operands that meet them all -/

/-- DecodeFollowsTheOpcodeTable. -/
theorem witness_DecodeFollowsTheOpcodeTable :
    decode 0x8126#16 = .instr (.shr 1 2) ∧
    (∃ r ∈ opcodeTable, r.covers 0x8126#16 = true ∧ r = Instr.row (.shr 1 2)) :=
  ⟨by decide, Instr.row (.shr 1 2), by decide, by decide, rfl⟩

/-- UnknownWordsAreTheListedGroups. -/
theorem witness_UnknownWordsAreTheListedGroups : decode 0x8128#16 = .unknown 0x8128#16 := by decide

/-- AssemblerLinesAreTheInstructions, one clause each: a line in range, one out of range, the largest DW and DB. -/
theorem witness_AssemblerLinesAreTheInstructions :
    ((AsmLine.drw 15 15 15).wellFormed = true ∧ (AsmLine.drw 15 15 15).item = .instr (.drw 15 15 15#4)) ∧
    (AsmLine.drw 15 15 16).wellFormed = false ∧ (0xFFFF ≤ 0xFFFF ∧ 0xFF ≤ 0xFF) := by decide

/-- ReadReturnsTheMostRecentWrite: the last address of a memory in form; a memory nothing was written to. -/
theorem witness_ReadReturnsTheMostRecentWrite : MemOk (m0.writeByte 0x300 7) ∧ 0xFFF ≤ 0xFFF ∧ m0.mem = [] := by
  unfold MemOk; decide

/-- ResetStateIsTheListedState: both ends of the zeroed range. -/
theorem witness_ResetStateIsTheListedState :
    (0x050 ≤ 0x050 ∧ 0x050 ≤ 0xFFF) ∧ (0x050 ≤ 0xFFF ∧ 0xFFF ≤ 0xFFF) := by decide

/-- ProgramLoadCopiesOrRefuses: an image of exactly 0xE00 bytes, and one of a byte more. -/
theorem witness_ProgramLoadCopiesOrRefuses :
    MemOk m0 ∧ (List.replicate 0xE00 (1#8)).length ≤ 0xE00 ∧ 0xE00 < (List.replicate 0xE01 (1#8)).length := by
  rw [List.length_replicate, List.length_replicate]; unfold MemOk; decide

/-- A frozen machine: ResetIsTheOnlyWayOutOfAFault, FrozenMachineIgnoresTicks. -/
theorem witness_Frozen : Frozen (m0.raise .memRange (.ldB 0)) ∧ (m0.raise .memRange (.ldB 0)).diag = none := ⟨rfl, rfl⟩

/-- A machine about to run the word at the last address it can fetch: CycleExecutesTheInstructionAtPc. -/
theorem witness_CycleExecutesTheInstructionAtPc :
    Running ((atPc 0xFFE#16).placeWord 0x7101#16) ∧ ((atPc 0xFFE#16).placeWord 0x7101#16).pc.toNat ≤ 0xFFE ∧
    decode (wordAtPc ((atPc 0xFFE#16).placeWord 0x7101#16)) = .instr (.addImm 1 1#8) :=
  ⟨⟨rfl, rfl⟩, by decide, by decide⟩

/-- StepRunsTheDecodedInstruction: with an input fixed, and with none. -/
theorem witness_StepRunsTheDecodedInstruction :
    (Running { (m0.placeWord 0x7101#16) with inputs := [⟨1#16, 2#8⟩] } ∧
      decode (wordAtPc { (m0.placeWord 0x7101#16) with inputs := [⟨1#16, 2#8⟩] }) = .instr (.addImm 1 1#8) ∧
      { (m0.placeWord 0x7101#16) with inputs := [⟨1#16, 2#8⟩] }.inputs = [⟨1#16, 2#8⟩]) ∧
    (Running (m0.placeWord 0x7101#16) ∧ (m0.placeWord 0x7101#16).pc.toNat ≤ 0xFFE ∧
      decode (wordAtPc (m0.placeWord 0x7101#16)) = .instr (.addImm 1 1#8) ∧ (m0.placeWord 0x7101#16).inputs = []) :=
  ⟨⟨⟨rfl, rfl⟩, by decide, rfl⟩, ⟨rfl, rfl⟩, by decide, by decide, rfl⟩

/-- UnknownWordIsADiagnosticNoOp, and the right side of OnlyUnknownWordsEmitDiagnostics. -/
theorem witness_UnknownWordIsADiagnosticNoOp :
    Running (m0.placeWord 0x8128#16) ∧ (m0.placeWord 0x8128#16).pc.toNat ≤ 0xFFE ∧
    wordAtPc (m0.placeWord 0x8128#16) = 0x8128#16 ∧ decode 0x8128#16 = .unknown 0x8128#16 :=
  ⟨⟨rfl, rfl⟩, by decide, by decide, by decide⟩

/-- FetchBeyondMemoryFaults: the first such address. -/
theorem witness_FetchBeyondMemoryFaults : Running (atPc 0xFFF#16) ∧ 0xFFE < (atPc 0xFFF#16).pc.toNat :=
  ⟨⟨rfl, rfl⟩, by decide⟩

/-- TimersCountDownEveryTick, LatchIsTheSnapshotOfTheCycle, FaultsHappenExactlyInTheListedCases: running and waiting; a
running machine about to read DT, and one about to test the last key. -/
theorem witness_NotFrozen :
    (m0.faulted = false ∧ (m0.startWait 3).faulted = false) ∧
    (Running (m0.placeWord 0xF107#16) ∧ (m0.placeWord 0xF107#16).pc.toNat ≤ 0xFFE ∧
      decode (wordAtPc (m0.placeWord 0xF107#16)) = .instr (.ldVxDt 1)) ∧
    (Running ((m0.setV 2 0xF).placeWord 0xE29E#16) ∧ (m0.placeWord 0xE29E#16).pc.toNat ≤ 0xFFE ∧
      decode (wordAtPc ((m0.setV 2 0xF).placeWord 0xE29E#16)) = .instr (.skp 2) ∧
      (((m0.setV 2 0xF).placeWord 0xE29E#16).getV 2).toNat = (15 : Reg).val) :=
  ⟨⟨rfl, rfl⟩, ⟨⟨rfl, rfl⟩, by decide, by decide⟩, ⟨rfl, rfl⟩, by decide, by decide, by decide⟩

/-- RetPopsOrUnderflows: the lowest and the highest slot, and the empty stack. -/
theorem witness_RetPopsOrUnderflows :
    ((withSp m0 1#4).sp.toNat = (1 : Fin 16).val ∧ (1 : Fin 16) ≠ 0) ∧
    ((withSp m0 15#4).sp.toNat = (15 : Fin 16).val ∧ (15 : Fin 16) ≠ 0) ∧ m0.sp = 0#4 := by decide

/-- CallPushesOrOverflows: the first and the last slot, and the full stack. -/
theorem witness_CallPushesOrOverflows :
    m0.sp.toNat + 1 = (1 : Fin 16).val ∧ (withSp m0 14#4).sp.toNat + 1 = (15 : Fin 16).val ∧
    (withSp m0 15#4).sp = 15#4 := by decide

/-- ReturnAfterCallResumes: at SP = 14, the return made from the very state the call left. -/
theorem witness_ReturnAfterCallResumes :
    (withSp m0 14#4).sp ≠ 15#4 ∧ (got (exec (.call 0x300#12) (withSp m0 14#4))).sp = 15#4 ∧
    (got (exec (.call 0x300#12) (withSp m0 14#4))).stack[15] = 0x200#16 := by decide

/-- ShiftsByOne: the value shifted, in both modes. -/
theorem witness_ShiftsByOne :
    5 = (if m0.cfg.legacyMode = true then (m0.setV 1 5).getV 2 else (m0.setV 1 5).getV 1).toNat ∧
    7 = (if lg.cfg.legacyMode = true then (lg.setV 2 7).getV 2 else (lg.setV 2 7).getV 1).toNat := by decide

/-- BcdStoresThreeDigits: the last I that fits, and the first that does not. -/
theorem witness_BcdStoresThreeDigits :
    MemOk (m0.setI 0xFFD) ∧ (m0.setI 0xFFD).i.toNat + 2 ≤ 0xFFF ∧
    MemOk (m0.setI 0xFFE) ∧ 0xFFF < (m0.setI 0xFFE).i.toNat + 2 := by unfold MemOk; decide

/-- BlockStoreStoresXRegisters and BlockLoadLoadsXRegisters: no register at all with I outside the memory, the last I
that fits 15 registers, the first that does not; and the same with addresses two apart. -/
theorem witness_BlockTransfers :
    (MemOk (m0.setI 0xFFFF) ∧ (0#4 : Nibble).toNat = 0) ∧
    (MemOk (m0.setI 0xFF1) ∧ transferAddr m0.cfg (m0.setI 0xFF1).i.toNat ((15#4).toNat - 1) ≤ 0xFFF) ∧
    (MemOk (m0.setI 0xFF2) ∧ 0 < (15#4).toNat ∧
      0xFFF < transferAddr m0.cfg (m0.setI 0xFF2).i.toNat ((15#4).toNat - 1)) ∧
    (MemOk (lgRun.setI 0xFE3) ∧ transferAddr lgRun.cfg (lgRun.setI 0xFE3).i.toNat ((15#4).toNat - 1) ≤ 0xFFF) ∧
    (MemOk (lgRun.setI 0xFE4) ∧ 0 < (15#4).toNat ∧
      0xFFF < transferAddr lgRun.cfg (lgRun.setI 0xFE4).i.toNat ((15#4).toNat - 1)) := by unfold MemOk; decide

/-- DrwFlipsTheSpriteCells: no row with I outside the memory, the last I that fits 15 rows, the first that does not. -/
theorem witness_DrwFlipsTheSpriteCells :
    ((0#4 : Nibble).toNat = 0 ∧ (m0.setI 0xFFFF).i.toNat = 0xFFFF) ∧
    (m0.setI 0xFF1).i.toNat + (15#4).toNat - 1 ≤ 0xFFF ∧
    (0 < (15#4).toNat ∧ 0xFFF < (m0.setI 0xFF2).i.toNat + (15#4).toNat - 1) := by decide

/-- KeySkips: the last key, and the first value that names none. -/
theorem witness_KeySkips :
    ((m0.setV 1 0xF).getV 1).toNat = (15 : Reg).val ∧ 0xF < ((m0.setV 1 0x10).getV 1).toNat := by decide

/-- KeyWaitTakesTheLowestKeyOrWaits: the first key and the last as the lowest, and no key. -/
theorem witness_KeyWaitTakesTheLowestKeyOrWaits :
    LowestKey 0xFFFF#16 0 ∧ LowestKey 0x8000#16 15 ∧ NoKey 0#16 := by
  refine ⟨⟨by decide, by decide⟩, ⟨by decide, by decide⟩, ?_⟩
  unfold NoKey; decide

/-- WakeUpWritesTheKey, HaltControlFollowsItsTable: a waiting machine with a key and with none. -/
theorem witness_WakeUpWritesTheKey :
    Waiting (m0.startWait 15) ∧ LowestKey 0x5000#16 12 ∧ NoKey 0#16 ∧ ¬ NoKey 0x5000#16 := by
  refine ⟨⟨rfl, rfl⟩, ⟨by decide, by decide⟩, ?_, ?_⟩ <;> (unfold NoKey; decide)

/-- HaltControlFollowsItsTable: each state of the FSM, and a running machine that begins to wait. -/
theorem witness_HaltControlFollowsItsTable :
    Frozen (m0.raise .memRange .nop) ∧ Waiting (m0.startWait 3) ∧ Running (m0.placeWord 0xF30A#16) ∧
    decode (wordAtPc (m0.placeWord 0xF30A#16)) = .instr (.ldVxK 3) :=
  ⟨rfl, ⟨rfl, rfl⟩, ⟨rfl, rfl⟩, by decide⟩

/-- WaitLastsUntilAKey: no wait before the key and two snapshots without one, the key then the last one. -/
theorem witness_WaitLastsUntilAKey :
    (Waiting { (m0.startWait 3) with inputs := [] ++ [⟨0x8000#16, 3#8⟩] } ∧ ([] : List CycleInput).length = 0) ∧
    Waiting { (m0.startWait 3) with inputs := [⟨0#16, 1#8⟩, ⟨0#16, 2#8⟩] ++ [⟨0x8000#16, 3#8⟩] } ∧
    ([⟨0#16, 1#8⟩, ⟨0#16, 2#8⟩] : List CycleInput).length = 2 ∧
    (∀ c ∈ ([⟨0#16, 1#8⟩, ⟨0#16, 2#8⟩] : List CycleInput), NoKey c.keys) ∧ LowestKey 0x8000#16 15 := by
  refine ⟨⟨⟨rfl, rfl⟩, rfl⟩, ⟨rfl, rfl⟩, rfl, ?_, by decide, by decide⟩
  unfold NoKey; decide

/-- FaultEntryIsPrecise and HaltControlFollowsItsTable: a cycle that meets each of the five faults, each at the first
value that causes it. -/
theorem witness_FaultEntryIsPrecise :
    CycleFaults ((withSp m0 15#4).placeWord 0x2300#16) ∧ CycleFaults (m0.placeWord 0x00EE#16) ∧
    CycleFaults ((m0.setI 0xFFE).placeWord 0xF033#16) ∧ CycleFaults (atPc 0xFFF#16) ∧
    CycleFaults ((m0.setV 3 0x10).placeWord 0xE39E#16) :=
  ⟨⟨rfl, .inr ⟨.call 0x300#12, .stackOverflow, by decide, _, rfl, by decide⟩⟩,
   ⟨rfl, .inr ⟨.ret, .stackUnderflow, by decide, _, rfl, by decide⟩⟩,
   ⟨rfl, .inr ⟨.ldB 0, .memRange, by decide, _, rfl, by decide⟩⟩,
   ⟨rfl, .inl (by decide)⟩,
   ⟨rfl, .inr ⟨.skp 3, .keyRange, by decide, _, rfl, by decide⟩⟩⟩

/-- InstructionsChangeOnlyTheirParts. -/
theorem witness_InstructionsChangeOnlyTheirParts : MemOk (m0.writeByte 0xFFF 7) := by unfold MemOk; decide

/-- UnlistedRegistersAreNotUsed: SHR V1, V2 in modern mode leaves V2 alone; in legacy mode V3. -/
theorem witness_UnlistedRegistersAreNotUsed :
    (¬ regReads m0.cfg (.shr 1 2) 2 ∧ ¬ regWrites (.shr 1 2) 2) ∧
    (¬ regReads lg.cfg (.shr 1 2) 3 ∧ ¬ regWrites (.shr 1 2) 3) := by
  simp only [regReads, regWrites]; decide

/-- OnlyCallWritesAndOnlyRetReadsTheStack: RET is no CALL, NOP is neither, CALL is no RET and pushes to a slot that is
there, up to the last. -/
theorem witness_OnlyCallWritesAndOnlyRetReadsTheStack :
    (∀ nnn, Instr.ret ≠ .call nnn) ∧ (Instr.nop ≠ .ret ∧ ∀ nnn, Instr.nop ≠ .call nnn) ∧
    Instr.call 0x300#12 ≠ .ret ∧ (15 : Fin 16).val = (withSp m0 14#4).sp.toNat + 1 :=
  ⟨nofun, ⟨nofun, nofun⟩, nofun, by decide⟩

/-- OnlyTheListedInstructionsWriteVf: ADD V1, V2 with a carry changes VF. -/
theorem witness_OnlyTheListedInstructionsWriteVf :
    (got (exec (.addReg 1 2) ((m0.setV 1 0xFF).setV 2 2))).getV VF ≠ ((m0.setV 1 0xFF).setV 2 2).getV VF := by decide

/-- LegacyModeIsReadAtFivePlaces, OnlyRndReadsTheRandomByte and NoInstructionReadsTheSoundTimer: ADD V1, V2 is none of the
instructions they except; LD ST, V1 meets the last clause of the third. -/
theorem witness_NotExcepted :
    (∀ x y, Instr.addReg 1 2 ≠ .shr x y ∧ Instr.addReg 1 2 ≠ .shl x y) ∧ (∀ nnn, Instr.addReg 1 2 ≠ .jpV0 nnn) ∧
    (∀ n, Instr.addReg 1 2 ≠ .ldMemVx n ∧ Instr.addReg 1 2 ≠ .ldVxMem n) ∧
    (∀ x nn, Instr.addReg 1 2 ≠ .rnd x nn) ∧ (∀ x, Instr.addReg 1 2 ≠ .ldStVx x) ∧
    Instr.ldStVx 1 = .ldStVx 1 :=
  ⟨fun _ _ => ⟨nofun, nofun⟩, nofun, fun _ => ⟨nofun, nofun⟩, nofun, nofun, rfl⟩

/-- FinishedRunOnlyCountsDown: a self-jump at 0x200, and one at the last address a fetch reads. -/
theorem witness_FinishedRunOnlyCountsDown :
    Finished (m0.placeWord 0x1200#16) ∧ Finished ((atPc 0xFFE#16).placeWord 0x1FFE#16) :=
  ⟨⟨by decide, by decide, rfl, rfl⟩, by decide, by decide, rfl, rfl⟩

/-- EveryStepKeepsTheInvariant: the reset state with the word of CALL 0x300 meets the invariant, and its step, whatever
the free inputs are, answers the called state. -/
theorem witness_EveryStepKeepsTheInvariant :
    Inv (m0.placeWord 0x2300#16) ∧ ∃ t, step (m0.placeWord 0x2300#16) = .next t ∧ t.pc = 0x300#16 := by
  refine ⟨⟨?_, nofun, by decide, fun _ => by decide, nofun, by decide, by decide⟩, _, rfl, by decide⟩
  unfold MemOk; decide

end Sys2Proof.Tests
end

section
/-! # The five fields of a word as remainders of its value (00_scope.md R16) -/

namespace Sys2Proof

theorem toNat_fieldNnn (w : Word) : (fieldNnn w).toNat = w.toNat % 4096 := by
  simp [fieldNnn]

theorem val_fieldX (w : Word) : (fieldX w).val = w.toNat / 256 % 16 := by
  simp [fieldX, Nat.shiftRight_eq_div_pow]

theorem val_fieldY (w : Word) : (fieldY w).val = w.toNat / 16 % 16 := by
  simp [fieldY, Nat.shiftRight_eq_div_pow]

theorem toNat_fieldN (w : Word) : (fieldN w).toNat = w.toNat % 16 := by
  simp [fieldN]

theorem toNat_fieldNn (w : Word) : (fieldNn w).toNat = w.toNat % 256 := by
  simp [fieldNn]

/-- Settles O5: each field is a contiguous slice of the word, so its value is a quotient by a power of two, reduced
to the slice's width. -/
theorem fieldsAreExtractedUniformly : Obligations.FieldsAreExtractedUniformly := fun w =>
  ⟨toNat_fieldNnn w, toNat_fieldN w, val_fieldX w, val_fieldY w, toNat_fieldNn w⟩

end Sys2Proof
end

section
/-! # The state after reset (10_state.md R39, 70_reset_and_hazards.md R250) -/

namespace Sys2Proof

open Sys2Proof.Machine Sys2Proof.Safety

/-- The glyph of digit `d` lies at 5d..5d+4 of a memory nobody wrote (R33, R51). -/
theorem unlisted_glyph (font : FontRom) (d : Fin 16) (k : Fin 5) :
    unlisted font (5 * d.val + k.val) = font[d][k] := by
  have hlt : 5 * d.val + k.val < 80 := by omega
  have hd : (5 * d.val + k.val) / 5 = d.val := by omega
  have hk : (5 * d.val + k.val) % 5 = k.val := by omega
  simp [unlisted, hlt, hd, hk]

/-- Above the font such a memory reads as zero (R39). -/
theorem unlisted_above_font (font : FontRom) {a : Nat} (h : 0x050 ≤ a) : unlisted font a = 0x00#8 :=
  dif_neg (Nat.not_lt.mpr h)

/-- A reset memory lists nothing, so that every address reads as unlisted. -/
theorem readByte_resetWith (c : Config) (a : Nat) : (State.resetWith c).readByte a = unlisted c.fontRom a := rfl

theorem getV_resetWith (c : Config) (x : Reg) : (State.resetWith c).getV x = 0x00#8 := by
  simp [State.getV, State.resetWith]

theorem stack_resetWith (c : Config) (j : Fin 16) : (State.resetWith c).stack[j] = 0x0000#16 := by
  simp [State.resetWith]

theorem pressed_resetWith (c : Config) (k : Reg) : (State.resetWith c).pressed k = false := by
  simp [State.pressed, State.resetWith]

/-- Settles O9: every field of the reset state is written out in `State.resetWith`, and its memory is the font below
0x050 and zero above. -/
theorem resetStateIsTheListedState : Obligations.ResetStateIsTheListedState := fun c =>
  ⟨getV_resetWith c, rfl, rfl, rfl, stack_resetWith c, rfl, rfl, fun d k => unlisted_glyph c.fontRom d k,
    fun _ ha _ => unlisted_above_font c.fontRom ha, fun x y => FrameBuffer.cell_clear x.val y.val,
    pressed_resetWith c, rfl, rfl, rfl, rfl, rfl, rfl, rfl⟩

/-- Settles O59: the reset memory lists nothing, no flag of the halt control is set, and PC and the slots are far below
their bounds. -/
theorem resetMeetsTheInvariant : Obligations.ResetMeetsTheInvariant := fun c =>
  { memOk := Memory.wf_nil
    oneState := nofun
    codeIff := ⟨fun _ => rfl, fun _ => rfl⟩
    recordClear := fun _ => ⟨rfl, rfl⟩
    frozenPc := nofun
    pcBound := (by decide : (0x0200#16).toNat ≤ 0x10FE)
    slotBound := fun j => by simp [stack_resetWith c j] }

end Sys2Proof
end

section
/-! # Noninterference: a change an instruction does not see (10_state.md R22, R26, R28, R36)

One two-run argument serves the registers, the stack, ST and the random byte: a perturbation of these four fields that
leaves what an instruction reads, and that commutes with what it writes, commutes with the instruction. -/

namespace Sys2Proof

open Sys2Proof.Machine Sys2Proof.Safety

/-- A change of the register file, the stack, ST and the random byte; every other field stays. -/
structure Perturbation where
  regs : Vector Byte 16 → Vector Byte 16 := id
  slots : Vector Word 16 → Vector Word 16 := id
  sound : Byte → Byte := id
  random : Byte → Byte := id

namespace Perturbation

/-- The machine after the change. -/
def apply (p : Perturbation) (s : State) : State :=
  { s with v := p.regs s.v, stack := p.slots s.stack, st := p.sound s.st, rand := p.random s.rand }

/-- The instruction does not see the change: no register of the "reads" column of its row of R22 changes, the change
commutes with a write to a register of the "writes" column, and the field that a RET, a CALL, an Fx18 or a Cxnn uses
besides stays. -/
structure Unseen (p : Perturbation) (i : Instr) (s : State) : Prop where
  reads : ∀ r, regReads s.cfg i r → (p.apply s).getV r = s.getV r
  writes : ∀ r, regWrites i r → ∀ (v : Vector Byte 16) (b : Byte), (p.regs v).set r b = p.regs (v.set r b)
  slots : (i = .ret ∨ ∃ nnn, i = .call nnn) → p.slots = id
  sound : (∃ x, i = .ldStVx x) → p.sound = id
  random : (∃ x nn, i = .rnd x nn) → p.random = id

/-- The instruction does the same on the changed machine, and leaves the change. -/
def Commutes (p : Perturbation) (i : Instr) (s : State) : Prop :=
  ∃ t, exec i s = .next t ∧ exec i (p.apply s) = .next (p.apply t)

/-! ### What the change leaves alone -/

section
variable (p : Perturbation) (s : State)

@[simp] theorem apply_i : (p.apply s).i = s.i := rfl
@[simp] theorem apply_pc : (p.apply s).pc = s.pc := rfl
@[simp] theorem apply_dt : (p.apply s).dt = s.dt := rfl
@[simp] theorem apply_fb : (p.apply s).fb = s.fb := rfl
@[simp] theorem apply_mem : (p.apply s).mem = s.mem := rfl
@[simp] theorem apply_cfg : (p.apply s).cfg = s.cfg := rfl
@[simp] theorem apply_rand : (p.apply s).rand = p.random s.rand := rfl
@[simp] theorem apply_unlisted : (p.apply s).unlisted = s.unlisted := rfl
@[simp] theorem apply_lowestPressed : (p.apply s).lowestPressed = s.lowestPressed := rfl
@[simp] theorem apply_readBytes (n a k : Nat) : (p.apply s).readBytes n a k = s.readBytes n a k := rfl

/-! ### The updates it commutes with -/

@[simp] theorem apply_setI (a : Word) : (p.apply s).setI a = p.apply (s.setI a) := rfl
@[simp] theorem apply_setPc (a : Word) : (p.apply s).setPc a = p.apply (s.setPc a) := rfl
@[simp] theorem apply_setDt (b : Byte) : (p.apply s).setDt b = p.apply (s.setDt b) := rfl
@[simp] theorem apply_setMem (m : Memory) : (p.apply s).setMem m = p.apply (s.setMem m) := rfl
@[simp] theorem apply_setFb (fb : FrameBuffer) : (p.apply s).setFb fb = p.apply (s.setFb fb) := rfl
@[simp] theorem apply_startWait (x : Reg) : (p.apply s).startWait x = p.apply (s.startWait x) := rfl

@[simp] theorem apply_skipIf (c : Bool) : (p.apply s).skipIf c = p.apply (s.skipIf c) := by cases c <;> rfl

@[simp] theorem apply_bumpI (n : Nibble) : (p.apply s).bumpI n = p.apply (s.bumpI n) := by
  cases hm : s.cfg.legacyMode <;> simp [State.bumpI, hm]

theorem apply_setSt (h : p.sound = id) (b : Byte) : (p.apply s).setSt b = p.apply (s.setSt b) := by
  simp [apply, State.setSt, h]

theorem apply_push (h : p.slots = id) (a : Word) : (p.apply s).push a = p.apply (s.push a) := by
  simp [apply, State.push, h]

theorem apply_popPc (h : p.slots = id) : (p.apply s).popPc = p.apply s.popPc := by
  simp [apply, State.popPc, State.top, h]

end

/-! ### An instruction that does not see it -/

section Unseen

variable {p : Perturbation} {i : Instr} {s : State} (h : p.Unseen i s)
include h

theorem Unseen.setV {x : Reg} (hx : regWrites i x) (t : State) (b : Byte) :
    (p.apply t).setV x b = p.apply (t.setV x b) := by
  simp only [apply, State.setV, ← h.writes x hx]

/-- A write to each register of a block, where each is one the instruction writes. -/
theorem Unseen.loadRegs (bs : List Byte) (v : Vector Byte 16) (j : Nat)
    (hw : ∀ r : Reg, r.val < j + bs.length → regWrites i r) (hj : j + bs.length ≤ 16) :
    Machine.loadRegs (p.regs v) j bs = p.regs (Machine.loadRegs v j bs) := by
  induction bs generalizing v j with
  | nil => rfl
  | cons b bs ih =>
    rw [List.length_cons] at hw hj
    have hj16 : j < 16 := by omega
    have hset : (p.regs v).set j b = p.regs (v.set j b) := h.writes ⟨j, hj16⟩ (hw _ (by simp)) v b
    have hin : ∀ w : Vector Byte 16, w.setIfInBounds j b = w.set j b := fun w => by
      simp [Vector.ext_iff, Vector.getElem_setIfInBounds, Vector.getElem_set]
    rw [Machine.loadRegs, Machine.loadRegs, hin, hin, hset]
    exact ih _ (j + 1) (fun r hr => hw r (by omega)) (by omega)

theorem Unseen.setVs (bs : List Byte) (hw : ∀ r : Reg, r.val < bs.length → regWrites i r) (hl : bs.length ≤ 16) :
    (p.apply s).setVs bs = p.apply (s.setVs bs) := by
  have hregs := h.loadRegs bs s.v 0 (by simpa using hw) (by simpa using hl)
  simp only [State.setVs, apply, hregs]

theorem Unseen.firstVs (n : Nat) (hr : ∀ r : Reg, r.val < n → regReads s.cfg i r) (hn : n ≤ 16) :
    (p.apply s).firstVs n = s.firstVs n := by
  obtain ⟨hlen, hget⟩ := s.firstVs_spec n hn
  obtain ⟨hlen', hget'⟩ := (p.apply s).firstVs_spec n hn
  refine List.ext_getElem (hlen'.trans hlen.symm) fun k hk' hk => ?_
  have hkn : k < n := hlen ▸ hk
  have hk16 : k < 16 := by omega
  rw [hget' k hk' hk16, hget k hk hk16, h.reads _ (hr ⟨k, hk16⟩ hkn)]

theorem Unseen.shiftSource (x y : Reg) (hr : ∀ r, r = x ∨ (s.cfg.legacyMode = true ∧ r = y) → regReads s.cfg i r) :
    (p.apply s).shiftSource x y = s.shiftSource x y := by
  cases hm : s.cfg.legacyMode with
  | true => simpa [State.shiftSource, hm] using h.reads y (hr y (.inr ⟨hm, rfl⟩))
  | false => simpa [State.shiftSource, hm] using h.reads x (hr x (.inl rfl))

end Unseen

theorem Unseen.jumpBase {p : Perturbation} {s : State} {nnn : Addr12} (h : p.Unseen (.jpV0 nnn) s) :
    (p.apply s).jumpBase nnn = s.jumpBase nnn := by
  cases hm : s.cfg.legacyMode <;> simpa [State.jumpBase, regReads, hm] using h.reads

/-- An instruction that answers `f s` commutes with the change where `f` does. -/
theorem commutes_of_next {p : Perturbation} {i : Instr} {s : State} {f : State → State}
    (hexec : ∀ s, exec i s = .next (f s)) (hf : f (p.apply s) = p.apply (f s)) : p.Commutes i s :=
  ⟨f s, hexec s, by rw [hexec, hf]⟩

/-- An instruction that faults where `c` holds and else answers `f s` commutes with the change where `f` does and the
change does not touch what the check reads. -/
theorem commutes_of_checked {p : Perturbation} {i : Instr} {s : State} {code : FaultCode} {c : State → Prop}
    [DecidablePred c] {f : State → State} (hexec : ∀ s, exec i s = if c s then .next (s.raise code i) else .next (f s))
    (hc : c (p.apply s) ↔ c s) (hf : f (p.apply s) = p.apply (f s)) : p.Commutes i s := by
  by_cases hcs : c s
  · exact ⟨s.raise code i, by rw [hexec, if_pos hcs], by rw [hexec, if_pos (hc.mpr hcs)]; rfl⟩
  · exact ⟨f s, by rw [hexec, if_neg hcs], by rw [hexec, if_neg (mt hc.mp hcs), hf]⟩

/-- A key skip commutes with the change where the register's value stays: the fault, and the skip. -/
theorem commutes_of_keySkip {p : Perturbation} {i : Instr} {s : State} {x : Reg} {c : State → Reg → Bool}
    (hexec : ∀ s, exec i s = match keyIndex (s.getV x) with
      | none => .next (s.raise .keyRange i)
      | some k => .next (s.skipIf (c s k)))
    (hx : (p.apply s).getV x = s.getV x) (hc : ∀ k, c (p.apply s) k = c s k) : p.Commutes i s := by
  unfold Commutes
  rw [hexec s, hexec (p.apply s), hx]
  cases keyIndex (s.getV x) with
  | none => exact ⟨_, rfl, rfl⟩
  | some k => exact ⟨_, rfl, by simp [hc]⟩

/-- A change an instruction does not see commutes with it. -/
theorem Unseen.commutes {p : Perturbation} {i : Instr} {s : State} (h : p.Unseen i s) : p.Commutes i s := by
  cases i
  case nop | cls | jp | ldI => exact commutes_of_next (fun _ => rfl) rfl
  case seImm x nn | sneImm x nn | ldF x | ldDtVx x =>
    exact commutes_of_next (fun _ => rfl) (by simp [h.reads x rfl])
  case seReg x y | sneReg x y =>
    exact commutes_of_next (fun _ => rfl) (by simp [h.reads x (.inl rfl), h.reads y (.inr rfl)])
  case jpV0 nnn => exact commutes_of_next (fun _ => rfl) (by simp [h.jumpBase])
  case ldImm x nn | ldVxDt x => exact commutes_of_next (fun _ => rfl) (by simp [h.setV rfl])
  case addImm x nn => exact commutes_of_next (fun _ => rfl) (by simp [h.reads x rfl, h.setV rfl])
  case ldReg x y => exact commutes_of_next (fun _ => rfl) (by simp [h.reads y rfl, h.setV rfl])
  case orReg x y | andReg x y | xorReg x y =>
    exact commutes_of_next (fun _ => rfl) (by simp [h.reads x (.inl rfl), h.reads y (.inr rfl), h.setV rfl])
  case addReg x y | subReg x y | subn x y =>
    refine commutes_of_next (fun _ => rfl) ?_
    simp [h.reads x (.inl rfl), h.reads y (.inr rfl), h.setV (x := VF) (.inr rfl), h.setV (x := x) (.inl rfl)]
  case shr x y | shl x y =>
    refine commutes_of_next (fun _ => rfl) ?_
    simp [h.shiftSource x y fun _ hr => hr, h.setV (x := VF) (.inr rfl), h.setV (x := x) (.inl rfl)]
  case addI x =>
    exact commutes_of_next (fun _ => rfl) (by simp [h.reads x (.inl rfl), h.reads VF (.inr rfl), h.setV rfl])
  case rnd x nn => exact commutes_of_next (fun _ => rfl) (by simp [h.random ⟨x, nn, rfl⟩, h.setV rfl])
  case ldStVx x =>
    exact commutes_of_next (fun _ => rfl) (by simp [h.reads x rfl, apply_setSt p s (h.sound ⟨x, rfl⟩)])
  case ldVxK x =>
    refine commutes_of_next (fun _ => rfl) ?_
    cases hk : s.lowestPressed <;> simp [State.awaitKey, hk, h.setV rfl]
  case ret =>
    exact commutes_of_checked (fun _ => rfl) .rfl (p.apply_popPc s (h.slots (.inl rfl)))
  case call nnn =>
    exact commutes_of_checked (fun _ => rfl) .rfl (by simp [p.apply_push s (h.slots (.inr ⟨nnn, rfl⟩))])
  case drw x y n =>
    refine commutes_of_checked (fun _ => rfl) .rfl ?_
    simp [State.drawn, h.reads x (.inl rfl), h.reads y (.inr rfl), h.setV rfl]
  case ldB x => exact commutes_of_checked (fun _ => rfl) .rfl (by simp [h.reads x rfl])
  case ldMemVx n =>
    exact commutes_of_checked (fun _ => rfl) .rfl (by simp [h.firstVs n.toNat (fun _ hr => hr) (by omega)])
  case ldVxMem n =>
    refine commutes_of_checked (fun _ => rfl) .rfl ?_
    have hlen : (s.readBytes (blockStride s.cfg) s.i.toNat n.toNat).length = n.toNat := Memory.length_readBlock ..
    simp [h.setVs (s.readBytes (blockStride s.cfg) s.i.toNat n.toNat) (by simp [hlen, regWrites]) (by omega)]
  case skp x | sknp x =>
    exact commutes_of_keySkip (fun _ => rfl) (h.reads x rfl) (fun _ => rfl)

/-- A change that leaves the registers alone is unseen where the instruction uses none of the fields it changes. -/
theorem unseen_of_regs_eq_id {p : Perturbation} {i : Instr} {s : State} (hregs : p.regs = id)
    (hslots : (i = .ret ∨ ∃ nnn, i = .call nnn) → p.slots = id) (hsound : (∃ x, i = .ldStVx x) → p.sound = id)
    (hrandom : (∃ x nn, i = .rnd x nn) → p.random = id) : p.Unseen i s where
  reads _ _ := by simp [State.getV, apply, hregs]
  writes _ _ _ _ := by simp [hregs]
  slots := hslots
  sound := hsound
  random := hrandom

/-- A change that changes nothing before the instruction changes nothing after it. -/
theorem Commutes.apply_eq_self {p : Perturbation} {i : Instr} {s t : State} (h : p.Commutes i s)
    (hs : p.apply s = s) (ht : exec i s = .next t) : p.apply t = t := by
  obtain ⟨u, hu, hu'⟩ := h
  rw [hs, hu] at hu'
  obtain rfl : u = t := Host.Outcome.next.inj (hu.symm.trans ht)
  exact (Host.Outcome.next.inj hu').symm

/-! ### One register, the stack, ST, the random byte -/

/-- Another value in one register. -/
def ofReg (r : Reg) (b : Byte) : Perturbation := { regs := fun v => v.set r b }

/-- Another stack. -/
def ofStack (k : Vector Word 16) : Perturbation := { slots := fun _ => k }

/-- Another value in ST. -/
def ofSt (b : Byte) : Perturbation := { sound := fun _ => b }

/-- Another random byte. -/
def ofRand (b : Byte) : Perturbation := { random := fun _ => b }

theorem ofReg_apply (r : Reg) (b : Byte) (s : State) : (ofReg r b).apply s = s.setV r b := rfl

theorem ofStack_apply (k : Vector Word 16) (s : State) : (ofStack k).apply s = { s with stack := k } := rfl

theorem ofSt_apply (b : Byte) (s : State) : (ofSt b).apply s = s.setSt b := rfl

theorem ofRand_apply (b : Byte) (s : State) : (ofRand b).apply s = { s with rand := b } := rfl

theorem ofReg_unseen {i : Instr} {s : State} {r : Reg} (b : Byte) (hr : ¬ regReads s.cfg i r)
    (hw : ¬ regWrites i r) : (ofReg r b).Unseen i s where
  reads q hq := by
    have hne : q ≠ r := fun e => hr (e ▸ hq)
    rw [ofReg_apply, State.getV_setV, if_neg hne]
  writes q hq v c := by
    have hne : r.val ≠ q.val := fun e => hw (Fin.ext e ▸ hq)
    exact Vector.set_comm (hi := r.isLt) (hj := q.isLt) b c hne
  slots _ := rfl
  sound _ := rfl
  random _ := rfl

theorem ofStack_commutes {i : Instr} {s : State} (k : Vector Word 16) (hret : i ≠ .ret) (hcall : ∀ nnn, i ≠ .call nnn) :
    (ofStack k).Commutes i s :=
  (unseen_of_regs_eq_id rfl (fun hi => absurd hi (by simp [hret, hcall])) (fun _ => rfl) (fun _ => rfl)).commutes

theorem ofSt_commutes {i : Instr} {s : State} (b : Byte) (hst : ∀ x, i ≠ .ldStVx x) : (ofSt b).Commutes i s :=
  (unseen_of_regs_eq_id rfl (fun _ => rfl) (fun ⟨x, hx⟩ => absurd hx (hst x)) (fun _ => rfl)).commutes

theorem ofRand_commutes {i : Instr} {s : State} (b : Byte) (hrnd : ∀ x nn, i ≠ .rnd x nn) : (ofRand b).Commutes i s :=
  (unseen_of_regs_eq_id rfl (fun _ => rfl) (fun _ => rfl) (fun ⟨x, nn, hx⟩ => absurd hx (hrnd x nn))).commutes

end Perturbation

open Perturbation

/-- Settles O52: another value in a register the instruction's row does not name is a change it does not see. -/
theorem unlistedRegistersAreNotUsed : Obligations.UnlistedRegistersAreNotUsed := fun _ _ _ b hr hw =>
  (ofReg_unseen b hr hw).commutes

/-- Settles O56: another random byte is a change no instruction but Cxnn sees. -/
theorem onlyRndReadsTheRandomByte : Obligations.OnlyRndReadsTheRandomByte := fun _ _ b hrnd => ofRand_commutes b hrnd

/-- An instruction but Fx18 leaves ST. -/
theorem exec_st {i : Instr} {s t : State} (hst : ∀ x, i ≠ .ldStVx x) (ht : exec i s = .next t) : t.st = s.st :=
  (congrArg State.st ((ofSt_commutes s.st hst).apply_eq_self rfl ht)).symm

/-- Settles O57: Fx18 overwrites ST with a register's value, and another value in ST is a change no other instruction
sees. -/
theorem noInstructionReadsTheSoundTimer : Obligations.NoInstructionReadsTheSoundTimer := by
  intro i s b
  by_cases hi : ∃ x, i = .ldStVx x
  · obtain ⟨x, rfl⟩ := hi
    exact ⟨s.setSt (s.getV x), s.getV x, rfl, rfl, fun hne => absurd rfl (hne x), fun _ _ => rfl⟩
  · have hne : ∀ x, i ≠ .ldStVx x := not_exists.mp hi
    obtain ⟨t, ht, ht'⟩ := ofSt_commutes (s := s) b hne
    exact ⟨t, b, ht, ht', fun _ => ⟨exec_st hne ht, rfl⟩, fun x hx => absurd hx (hne x)⟩

/-- RET leaves the stack, whether it pops or faults. -/
theorem exec_ret_stack (s : State) : ∃ t, exec .ret s = .next t ∧ t.stack = s.stack := by
  by_cases h : s.sp = 0#4
  · exact ⟨_, if_pos h, rfl⟩
  · exact ⟨_, if_neg h, rfl⟩

/-- An instruction that is neither RET nor CALL leaves the stack. -/
theorem exec_stack {i : Instr} {s t : State} (hret : i ≠ .ret) (hcall : ∀ nnn, i ≠ .call nnn)
    (ht : exec i s = .next t) : t.stack = s.stack :=
  (congrArg State.stack ((ofStack_commutes s.stack hret hcall).apply_eq_self rfl ht)).symm

/-- CALL does the same with any other stack, and puts into the slot above SP what it puts there with the first. -/
theorem exec_call_ofStack (nnn : Addr12) (s : State) (k : Vector Word 16) :
    ∃ t k', exec (.call nnn) s = .next t ∧ exec (.call nnn) { s with stack := k } = .next { t with stack := k' } ∧
      ∀ j : Fin 16, k'[j] = if j.val = s.sp.toNat + 1 then t.stack[j] else k[j] := by
  by_cases hsp : s.sp = 15#4
  · have hslot (j : Fin 16) : j.val ≠ s.sp.toNat + 1 := by simp [hsp]; omega
    exact ⟨_, k, if_pos hsp, if_pos hsp, fun j => (if_neg (hslot j)).symm⟩
  · have hslot : (s.sp + 1#4).toNat = s.sp.toNat + 1 := by bv_omega
    refine ⟨_, _, if_neg hsp, if_neg hsp, fun j => ?_⟩
    by_cases hj : j.val = s.sp.toNat + 1
    · simp [hslot, hj]
    · simp [hslot, hj, Ne.symm hj]

/-- Settles O53: another stack is a change no instruction but RET and CALL sees; RET reads it and writes none of it, and
CALL overwrites one slot. -/
theorem onlyCallWritesAndOnlyRetReadsTheStack : Obligations.OnlyCallWritesAndOnlyRetReadsTheStack := by
  refine ⟨fun i s hcall => ?_, fun i s k hret => ?_⟩
  · by_cases hret : i = .ret
    · subst hret
      exact exec_ret_stack s
    · obtain ⟨t, ht, -⟩ := ofStack_commutes (s := s) s.stack hret hcall
      exact ⟨t, ht, exec_stack hret hcall ht⟩
  · by_cases hi : ∃ nnn, i = .call nnn
    · obtain ⟨nnn, rfl⟩ := hi
      obtain ⟨t, k', ht, ht', hk'⟩ := exec_call_ofStack nnn s k
      exact ⟨t, k', ht, ht', fun hne => absurd rfl (hne nnn), fun _ _ => hk'⟩
    · have hcall : ∀ nnn, i ≠ .call nnn := not_exists.mp hi
      obtain ⟨t, ht, ht'⟩ := ofStack_commutes (s := s) k hret hcall
      exact ⟨t, k, ht, ht', fun _ => rfl, fun nnn hx => absurd hx (hcall nnn)⟩

end Sys2Proof
end

section
/-! # Frames: what each update of the state may change, and what each instruction may (10_state.md R22 to R35, R40) -/

namespace Sys2Proof

open Sys2Proof.Machine Sys2Proof.Safety

/-! ### One rule per update: it adds its own parts to what may have changed before it -/

namespace Safety.ChangesOnly

variable {T : Part → Prop} {s t : State}

theorem refl : ChangesOnly T s s := fun p _ => by
  cases p with
  | fault => exact ⟨rfl, rfl, rfl, rfl⟩
  | _ => rfl

theorem setV (h : ChangesOnly T s t) {x : Reg} {b : Byte} (hx : T (.v x)) : ChangesOnly T s (t.setV x b) := by
  intro p hp
  have ht := h p hp
  cases p with
  | v r =>
    have hne : r ≠ x := fun e => hp (e ▸ hx)
    exact (by rw [State.getV_setV, if_neg hne] : (t.setV x b).getV r = t.getV r).trans ht
  | _ => exact ht

theorem setVs (h : ChangesOnly T s t) {bs : List Byte} (hbs : ∀ r : Reg, r.val < bs.length → T (.v r)) :
    ChangesOnly T s (t.setVs bs) := by
  intro p hp
  have ht := h p hp
  cases p with
  | v r =>
    have hout : ¬ r.val < bs.length := fun hr => hp (hbs r hr)
    exact (by rw [State.getV_setVs, dif_neg hout] : (t.setVs bs).getV r = t.getV r).trans ht
  | _ => exact ht

theorem setI (h : ChangesOnly T s t) {a : Word} (hi : T .i) : ChangesOnly T s (t.setI a) := by
  intro p hp
  have ht := h p hp
  cases p with
  | i => exact absurd hi hp
  | _ => exact ht

theorem setPc (h : ChangesOnly T s t) {a : Word} (hpc : T .pc) : ChangesOnly T s (t.setPc a) := by
  intro p hp
  have ht := h p hp
  cases p with
  | pc => exact absurd hpc hp
  | _ => exact ht

theorem setDt (h : ChangesOnly T s t) {b : Byte} (hdt : T .dt) : ChangesOnly T s (t.setDt b) := by
  intro p hp
  have ht := h p hp
  cases p with
  | dt => exact absurd hdt hp
  | _ => exact ht

theorem setSt (h : ChangesOnly T s t) {b : Byte} (hst : T .st) : ChangesOnly T s (t.setSt b) := by
  intro p hp
  have ht := h p hp
  cases p with
  | st => exact absurd hst hp
  | _ => exact ht

theorem push (h : ChangesOnly T s t) {a : Word} (hsp : T .sp)
    (hslot : ∀ j : Fin 16, j.val = (t.sp + 1#4).toNat → T (.slot j)) : ChangesOnly T s (t.push a) := by
  intro p hp
  have ht := h p hp
  cases p with
  | sp => exact absurd hsp hp
  | slot j => exact (t.push_slot a j fun e => hp (hslot j e)).trans ht
  | _ => exact ht

theorem popPc (h : ChangesOnly T s t) (hpc : T .pc) (hsp : T .sp) : ChangesOnly T s t.popPc := by
  intro p hp
  have ht := h p hp
  cases p with
  | pc => exact absurd hpc hp
  | sp => exact absurd hsp hp
  | _ => exact ht

theorem setFb (h : ChangesOnly T s t) {fb : FrameBuffer} (hfb : ∀ c r, T (.cell c r)) :
    ChangesOnly T s (t.setFb fb) := by
  intro p hp
  have ht := h p hp
  cases p with
  | cell c r => exact absurd (hfb c r) hp
  | _ => exact ht

theorem startWait (h : ChangesOnly T s t) {x : Reg} (hw : T .waiting) (hx : T .waitX) :
    ChangesOnly T s (t.startWait x) := by
  intro p hp
  have ht := h p hp
  cases p with
  | waiting => exact absurd hw hp
  | waitX => exact absurd hx hp
  | _ => exact ht

theorem raise (h : ChangesOnly T s t) {code : FaultCode} {i : Instr} (hpc : T .pc) (hf : T .fault) :
    ChangesOnly T s (t.raise code i) := by
  intro p hp
  have ht := h p hp
  cases p with
  | pc => exact absurd hpc hp
  | fault => exact absurd hf hp
  | _ => exact ht

theorem writeBytes (h : ChangesOnly T s t) {n a : Nat} {xs : List Byte} (hn : 0 < n) (hok : MemOk t)
    (hin : ∀ k, k < xs.length → a + n * k ≤ topAddr) (hmem : ∀ k, k < xs.length → T (.mem (a + n * k))) :
    ChangesOnly T s (t.writeBytes n a xs) := by
  intro p hp
  have ht := h p hp
  cases p with
  | mem b =>
    have hout : ∀ k, k < xs.length → b ≠ a + n * k := fun k hk e => hp (e ▸ hmem k hk)
    exact ((Memory.read_writeBlock xs hn hok hin).2 b hout).trans ht
  | _ => exact ht

theorem skipIf (h : ChangesOnly T s t) {c : Bool} (hpc : T .pc) : ChangesOnly T s (t.skipIf c) := by
  cases c with
  | true => exact h.setPc hpc
  | false => exact h

theorem writeFlagged (h : ChangesOnly T s t) {x : Reg} {f : Bool} {b : Byte} (hx : T (.v x)) (hvf : T (.v VF)) :
    ChangesOnly T s (t.writeFlagged x f b) := (h.setV hvf).setV hx

theorem bumpI (h : ChangesOnly T s t) {n : Nibble} (hi : t.cfg.legacyMode = true → T .i) :
    ChangesOnly T s (t.bumpI n) := by
  unfold State.bumpI
  split
  · next hm => exact h.setI (hi hm)
  · exact h

theorem awaitKey (h : ChangesOnly T s t) {x : Reg} (hx : T (.v x)) (hw : T .waiting) (hwx : T .waitX) :
    ChangesOnly T s (t.awaitKey x) := by
  unfold State.awaitKey
  split
  · exact h.setV hx
  · exact h.startWait hw hwx

end Safety.ChangesOnly

/-! ### The checks of the instructions are the conditions of R230 -/

/-- Byte `k` of a block transfer lies where R168 says. -/
theorem blockAddr_eq_transferAddr (c : Config) (base k : Nat) : blockAddr c base k = transferAddr c base k := by
  unfold blockAddr blockStride transferAddr
  cases c.legacyMode <;> cases c.legacyBlockAddr <;> simp

theorem blockStride_pos (c : Config) : 0 < blockStride c := by
  unfold blockStride
  split <;> decide

theorem rangeOut_iff (s : State) (n : Nat) : s.rangeOut n = true ↔ 0 < n ∧ s.i.toNat + n - 1 > 0xFFF := by
  simp [State.rangeOut, inSpace, topAddr]
  omega

theorem blockOut_iff (s : State) (n : Nat) :
    s.blockOut n = true ↔ 0 < n ∧ transferAddr s.cfg s.i.toNat (n - 1) > 0xFFF := by
  simp [State.blockOut, inSpace, topAddr, blockAddr_eq_transferAddr]

theorem keyIndex_none {b : Byte} (h : keyIndex b = none) : b.toNat > 0xF := by
  by_contra hle
  rw [keyIndex_eq, dif_pos (by omega)] at h
  cases h

/-- Below the last byte of a transfer that fits, every byte fits. -/
theorem blockAddr_le_topAddr {s : State} {n k : Nat} (h : ¬ s.blockOut n = true) (hk : k < n) :
    blockAddr s.cfg s.i.toNat k ≤ topAddr := by
  have hlast : blockAddr s.cfg s.i.toNat (n - 1) ≤ topAddr := by
    by_contra hgt
    exact h (by simp [State.blockOut, inSpace, hgt]; omega)
  have hmono : blockStride s.cfg * k ≤ blockStride s.cfg * (n - 1) := Nat.mul_le_mul_left _ (by omega)
  unfold blockAddr at hlast ⊢
  omega

/-! ### Every instruction -/

/-- The instruction answers a next state and changes only the parts the rules give it. -/
def Framed (i : Instr) (s : State) : Prop := ∃ t, exec i s = .next t ∧ ChangesOnly (mayChange i s) s t

/-- The frame of an instruction that faults where `c` holds and else answers `t`. -/
theorem framed_of_checked {i : Instr} {s t : State} {code : FaultCode} {c : Prop} [Decidable c]
    (hexec : exec i s = if c then .next (s.raise code i) else .next t) (hpc : writesPc i)
    (hfault : c → Faults i s code) (ht : ¬ c → ChangesOnly (mayChange i s) s t) : Framed i s := by
  by_cases hc : c
  · exact ⟨_, hexec.trans (if_pos hc), ChangesOnly.refl.raise hpc ⟨code, hfault hc⟩⟩
  · exact ⟨t, hexec.trans (if_neg hc), ht hc⟩

/-- The frame of a key skip. -/
theorem framed_of_keySkip {i : Instr} {s : State} {x : Reg} {c : Reg → Bool}
    (hexec : exec i s = match keyIndex (s.getV x) with
      | none => .next (s.raise .keyRange i)
      | some k => .next (s.skipIf (c k)))
    (hpc : writesPc i) (hfault : (s.getV x).toNat > 0xF → Faults i s .keyRange) : Framed i s := by
  cases hk : keyIndex (s.getV x) with
  | none => exact ⟨_, by rw [hexec, hk], ChangesOnly.refl.raise hpc ⟨_, hfault (keyIndex_none hk)⟩⟩
  | some k => exact ⟨_, by rw [hexec, hk], ChangesOnly.refl.skipIf hpc⟩

theorem framed_call (nnn : Addr12) (s : State) : Framed (.call nnn) s :=
  framed_of_checked rfl trivial (fun h => ⟨_, rfl, h⟩) fun hsp =>
    have hnext : (s.sp + 1#4).toNat = s.sp.toNat + 1 := by bv_omega
    (ChangesOnly.refl.push (.inr ⟨nnn, rfl⟩) fun _ hj => ⟨⟨nnn, rfl⟩, hj.trans hnext⟩).setPc trivial

theorem framed_drw (x y : Reg) (n : Nibble) (s : State) : Framed (.drw x y n) s :=
  framed_of_checked rfl trivial (fun h => ⟨_, rfl, (rangeOut_iff s n.toNat).mp h⟩) fun _ =>
    (ChangesOnly.refl.setFb fun _ _ => .inr ⟨x, y, n, rfl⟩).setV rfl

theorem framed_ldB (x : Reg) {s : State} (hok : MemOk s) : Framed (.ldB x) s := by
  refine framed_of_checked rfl trivial (fun h => ⟨_, rfl, ?_⟩) fun h => ?_
  · have hout := (rangeOut_iff s 3).mp h
    omega
  · have hin : s.i.toNat + 2 ≤ 0xFFF := by
      have hrange := mt (rangeOut_iff s 3).mpr h
      omega
    refine ChangesOnly.refl.writeBytes (by decide) hok (fun k hk => ?_) fun k hk => .inl ⟨x, rfl, ?_⟩
    · simp only [bcdDigits, List.length_cons, List.length_nil, topAddr] at hk ⊢
      omega
    · simp only [bcdDigits, List.length_cons, List.length_nil] at hk
      omega

theorem framed_ldMemVx (n : Nibble) {s : State} (hok : MemOk s) : Framed (.ldMemVx n) s := by
  refine framed_of_checked rfl trivial (fun h => ⟨_, rfl, (blockOut_iff s n.toNat).mp h⟩) fun h => ?_
  have hlen : (s.firstVs n.toNat).length = n.toNat := (s.firstVs_spec n.toNat (by omega)).1
  refine ChangesOnly.bumpI ?_ fun hm => .inr (.inr (.inr ⟨hm, .inl ⟨n, rfl⟩⟩))
  refine ChangesOnly.refl.writeBytes (blockStride_pos s.cfg) hok ?_ fun k hk => .inr ⟨n, rfl, k, hlen ▸ hk, ?_⟩
  · exact fun k hk => blockAddr_le_topAddr h (hlen ▸ hk)
  · exact blockAddr_eq_transferAddr s.cfg s.i.toNat k

theorem framed_ldVxMem (n : Nibble) (s : State) : Framed (.ldVxMem n) s := by
  refine framed_of_checked rfl trivial (fun h => ⟨_, rfl, (blockOut_iff s n.toNat).mp h⟩) fun _ => ?_
  refine ChangesOnly.bumpI ?_ fun hm => .inr (.inr (.inr ⟨hm, .inr ⟨n, rfl⟩⟩))
  exact ChangesOnly.refl.setVs fun _ hr => hr.trans_eq (Memory.length_readBlock ..)

/-- The frame of every instruction. -/
theorem exec_framed (i : Instr) {s : State} (hok : MemOk s) : Framed i s := by
  cases i
  case nop => exact ⟨_, rfl, .refl⟩
  case cls => exact ⟨_, rfl, ChangesOnly.refl.setFb fun _ _ => .inl rfl⟩
  case ret =>
    exact framed_of_checked rfl trivial (fun h => ⟨_, rfl, h⟩) fun _ => ChangesOnly.refl.popPc trivial (.inl rfl)
  case call nnn => exact framed_call nnn s
  case jp | jpV0 => exact ⟨_, rfl, ChangesOnly.refl.setPc trivial⟩
  case seImm | sneImm | seReg | sneReg => exact ⟨_, rfl, ChangesOnly.refl.skipIf trivial⟩
  case skp x | sknp x => exact framed_of_keySkip rfl trivial fun h => ⟨_, rfl, h⟩
  case ldImm | addImm | ldReg | orReg | andReg | xorReg | rnd | ldVxDt => exact ⟨_, rfl, ChangesOnly.refl.setV rfl⟩
  case addReg | subReg | subn | shr | shl => exact ⟨_, rfl, ChangesOnly.refl.writeFlagged (.inl rfl) (.inr rfl)⟩
  case ldI nnn => exact ⟨_, rfl, ChangesOnly.refl.setI (.inl ⟨nnn, rfl⟩)⟩
  case addI x => exact ⟨_, rfl, (ChangesOnly.refl.setI (.inr (.inl ⟨x, rfl⟩))).setV rfl⟩
  case ldF x => exact ⟨_, rfl, ChangesOnly.refl.setI (.inr (.inr (.inl ⟨x, rfl⟩)))⟩
  case ldDtVx x => exact ⟨_, rfl, ChangesOnly.refl.setDt ⟨x, rfl⟩⟩
  case ldStVx x => exact ⟨_, rfl, ChangesOnly.refl.setSt ⟨x, rfl⟩⟩
  case ldVxK x => exact ⟨_, rfl, ChangesOnly.refl.awaitKey rfl ⟨x, rfl⟩ ⟨x, rfl⟩⟩
  case drw x y n => exact framed_drw x y n s
  case ldB x => exact framed_ldB x hok
  case ldMemVx n => exact framed_ldMemVx n hok
  case ldVxMem n => exact framed_ldVxMem n s

/-- Settles O51: each instruction's meaning is a chain of updates, each of which changes only parts the rules give the
instruction. -/
theorem instructionsChangeOnlyTheirParts : Obligations.InstructionsChangeOnlyTheirParts := fun i _ hok =>
  exec_framed i hok

end Sys2Proof
end

section
/-! # Memory: the write of a byte, and the fetch beyond the memory (20_memory.md R57, R59) -/

namespace Sys2Proof

open Sys2Proof.Machine Sys2Proof.Safety

/-! ### A byte written and read back -/

theorem readByte_writeByte {s : State} (a : Nat) (x : Byte) (b : Nat) (hok : MemOk s) :
    (s.writeByte a x).readByte b = if b = a then x else s.readByte b :=
  Memory.read_write x b hok

theorem readByte_of_mem_nil {s : State} (a : Nat) (h : s.mem = []) : s.readByte a = unlisted s.cfg.fontRom a :=
  congrArg (Memory.read s.unlisted · a) h

namespace Safety.ChangesOnly

variable {T : Part → Prop} {s t : State}

theorem writeByte (h : ChangesOnly T s t) {a : Nat} {x : Byte} (hok : MemOk t) (hmem : T (.mem a)) :
    ChangesOnly T s (t.writeByte a x) := by
  intro p hp
  have ht := h p hp
  cases p with
  | mem b =>
    have hne : b ≠ a := fun e => hp (e ▸ hmem)
    exact ((readByte_writeByte a x b hok).trans (if_neg hne)).trans ht
  | _ => exact ht

end Safety.ChangesOnly

/-- Settles O8: a write lists the byte, or drops its address where that reads so unlisted, and the canonical form keeps
every other address apart from it; an empty list reads as the reset memory. -/
theorem readReturnsTheMostRecentWrite : Obligations.ReadReturnsTheMostRecentWrite := by
  refine ⟨fun s a x hok ha => ⟨?_, ?_, ?_⟩, fun s a hnil => ?_⟩
  · exact (readByte_writeByte a x a hok).trans (if_pos rfl)
  · exact ChangesOnly.refl.writeByte hok rfl
  · exact s.wf_writeByte x hok ha
  · exact (readByte_of_mem_nil a hnil).trans (readByte_resetWith s.cfg a).symm

/-! ### The fetch beyond the memory -/

namespace Safety.ChangesOnly

variable {T : Part → Prop} {s t : State}

theorem afterPhases (h : ChangesOnly T s t) (keys : BitVec 16) (rand : Byte) (hT : ∀ p, phaseParts p → T p) :
    ChangesOnly T s (afterPhases keys rand t) := by
  intro p hp
  have ht := h p hp
  cases p with
  | dt | st | key | rand | diag => exact (hp (hT _ trivial)).elim
  | _ => exact ht

/-- The fault entry of a fetch puts PC where it stands, so that only the record changes. -/
theorem fetchFault (h : ChangesOnly T s t) (hf : T .fault) : ChangesOnly T s t.fetchFault := by
  intro p hp
  have ht := h p hp
  cases p with
  | fault => exact absurd hf hp
  | _ => exact ht

end Safety.ChangesOnly

/-- A running machine whose PC lies beyond the last word executes nothing: its cycle is the phases and the fault entry. -/
theorem cycle_of_fetch_beyond_memory {s : State} (keys : BitVec 16) (rand : Byte) (hrun : Running s)
    (hpc : 0xFFE < s.pc.toNat) : cycle keys rand s = .next (afterPhases keys rand s).fetchFault :=
  have hout : (afterPhases keys rand s).fetchOut = true := (State.fetchOut_iff _).mpr hpc
  (cycle_running keys rand hrun).trans (if_pos hout)

/-- Settles O16: the record is that of the fault entry, and the frame is that of the phases and then the entry. -/
theorem fetchBeyondMemoryFaults : Obligations.FetchBeyondMemoryFaults := fun keys rand _ hrun hpc =>
  ⟨_, cycle_of_fetch_beyond_memory keys rand hrun hpc, rfl, rfl, rfl, rfl,
    (ChangesOnly.refl.afterPhases keys rand fun _ => .inr).fetchFault (.inl rfl)⟩

end Sys2Proof
end

section
/-! # Decoder and encoder (30_encoding.md R74, R75) -/

namespace Sys2Proof

/-! ### The decoder reads back what the encoder packs -/

theorem decode_encode (i : Instr) : decode (encode i) = .instr i := by
  cases i
  case nop | cls | ret => rfl
  case jp | call | ldI | jpV0 => simp [encode, decode]
  case seImm | sneImm | ldImm | addImm | rnd => simp [encode, decode]
  case seReg | sneReg | drw => simp [encode, decode]
  case ldReg | orReg | andReg | xorReg | addReg | subReg | shr | subn | shl => simp [encode, decode, decodeGroup8]
  case skp | sknp => simp [encode, decode, decodeGroupE]
  case ldVxDt | ldVxK | ldDtVx | ldStVx | addI | ldF | ldB | ldMemVx | ldVxMem => simp [encode, decode, decodeGroupF]

theorem encode_injective {i j : Instr} (h : encode i = encode j) : i = j :=
  Decoded.instr.inj ((decode_encode i).symm.trans (h ▸ decode_encode j))

theorem decodeBytes_bytesOfWord_append {w : Word} {i : Instr} (h : decode w = .instr i) (rest : List Byte) :
    decodeBytes (bytesOfWord w ++ rest) = .instr i rest := by
  simp [bytesOfWord, decodeBytes, h]

/-- Settles O1: each operand is a field of the word it is packed into, and the two bytes of a word make it again. -/
theorem decodeOfEncodeIsTheInstruction : Obligations.DecodeOfEncodeIsTheInstruction := fun i rest =>
  ⟨decode_encode i, decodeBytes_bytesOfWord_append (decode_encode i) rest⟩

/-! ### A word is packed from its own fields: no bit lies outside them (R71) -/

theorem fieldOp_lt (w : Word) : fieldOp w < 16 := by
  have hw := w.isLt
  simp only [fieldOp]
  omega

theorem packNnn_fields {op : Nat} {w : Word} (hop : fieldOp w = op) : packNnn op (fieldNnn w) = w := by
  have hw := w.isLt
  apply BitVec.eq_of_toNat_eq
  simp only [packNnn, ← hop, fieldOp, toNat_fieldNnn, BitVec.toNat_ofNat]
  omega

theorem packXnn_fields {op : Nat} {nn : Byte} {w : Word} (hop : fieldOp w = op) (hnn : fieldNn w = nn) :
    packXnn op (fieldX w) nn = w := by
  have hw := w.isLt
  apply BitVec.eq_of_toNat_eq
  simp only [packXnn, ← hop, ← hnn, fieldOp, val_fieldX, toNat_fieldNn, BitVec.toNat_ofNat]
  omega

theorem packXyn_fields {op : Nat} {n : Nibble} {w : Word} (hop : fieldOp w = op) (hn : fieldN w = n) :
    packXyn op (fieldX w) (fieldY w) n = w := by
  have hw := w.isLt
  apply BitVec.eq_of_toNat_eq
  simp only [packXyn, ← hop, ← hn, fieldOp, val_fieldX, val_fieldY, toNat_fieldN, BitVec.toNat_ofNat]
  omega

/-! ### The decoder loses nothing of the word -/

/-- The word an outcome of the decoder stands for. -/
def Decoded.word : Decoded → Word
  | .instr i => encode i
  | .unknown w => w

theorem word_decodeGroup0 (w : Word) : (decodeGroup0 w).word = w := by
  unfold decodeGroup0
  split
  · next h => exact h.symm
  split
  · next h => exact h.symm
  split
  · next h => exact h.symm
  · rfl

theorem word_decodeGroup8 {w : Word} (hop : fieldOp w = 0x8) : (decodeGroup8 w).word = w := by
  unfold decodeGroup8
  split
  case h_10 => rfl
  all_goals next hn => exact packXyn_fields hop (BitVec.eq_of_toNat_eq hn)

theorem word_decodeGroupE {w : Word} (hop : fieldOp w = 0xE) : (decodeGroupE w).word = w := by
  unfold decodeGroupE
  split
  case h_3 => rfl
  all_goals next hnn => exact packXnn_fields hop (BitVec.eq_of_toNat_eq hnn)

theorem word_decodeGroupF {w : Word} (hop : fieldOp w = 0xF) : (decodeGroupF w).word = w := by
  unfold decodeGroupF
  split
  case h_10 => rfl
  all_goals next hnn => exact packXnn_fields hop (BitVec.eq_of_toNat_eq hnn)

/-- The outcome stands for the word it was decoded from. The cases are the high nibbles in order, 0 to 0xF, and a last
one that no word reaches. -/
theorem word_decode (w : Word) : (decode w).word = w := by
  unfold decode
  split
  case h_1 => exact word_decodeGroup0 w
  case h_2 hop | h_3 hop | h_11 hop | h_12 hop => exact packNnn_fields hop
  case h_4 hop | h_5 hop | h_7 hop | h_8 hop | h_13 hop => exact packXnn_fields hop rfl
  case h_6 hop | h_10 hop =>
    split
    · next hn => exact packXyn_fields hop hn
    · rfl
  case h_9 hop => exact word_decodeGroup8 hop
  case h_14 hop => exact packXyn_fields hop rfl
  case h_15 hop => exact word_decodeGroupE hop
  case h_16 hop => exact word_decodeGroupF hop
  case h_17 => rfl

theorem decode_eq_instr_iff {w : Word} {i : Instr} : decode w = .instr i ↔ encode i = w := by
  constructor
  · intro h
    simpa [h, Decoded.word] using word_decode w
  · rintro rfl
    exact decode_encode i

theorem eq_of_decode_eq_unknown {w u : Word} (h : decode w = .unknown u) : u = w := by
  simpa [h, Decoded.word] using word_decode w

/-- Settles O2: the outcome of the decoder stands for the word, and an instruction that had the word of an unknown one
would be what the word decodes to. -/
theorem encodeOfDecodeIsTheWord : Obligations.EncodeOfDecodeIsTheWord := by
  intro w
  cases hd : decode w with
  | instr i =>
    have hi : encode i = w := decode_eq_instr_iff.mp hd
    exact .inl ⟨i, rfl, hi, fun j hj => encode_injective (hj.trans hi.symm)⟩
  | unknown u =>
    obtain rfl : u = w := eq_of_decode_eq_unknown hd
    refine .inr ⟨rfl, fun j hj => ?_⟩
    rw [decode_eq_instr_iff.mpr hj] at hd
    cases hd

/-- Settles O6: the decoder computes each of the eleven outcomes. -/
theorem listedWordsDecode : Obligations.ListedWordsDecode := by
  unfold Obligations.ListedWordsDecode
  decide

end Sys2Proof
end

section
/-! # The opcode table (30_encoding.md R78) -/

namespace Sys2Proof

/-! ### What a row says of the fields of a word it covers -/

theorem OpcodeRow.and_mask_of_covers {r : OpcodeRow} {w : Word} (h : r.covers w = true) :
    w &&& r.mask = r.pattern :=
  beq_iff_eq.mp h

theorem fieldOp_and (w m : Word) : fieldOp (w &&& m) = fieldOp w &&& fieldOp m := by
  simp [fieldOp, Nat.and_div_two_pow (n := 12)]

theorem fieldN_and (w m : Word) : fieldN (w &&& m) = fieldN w &&& fieldN m := by
  simp [fieldN, BitVec.extractLsb'_and]

theorem fieldNn_and (w m : Word) : fieldNn (w &&& m) = fieldNn w &&& fieldNn m := by
  simp [fieldNn, BitVec.extractLsb'_and]

section
variable {r : OpcodeRow} {w : Word} (h : r.covers w = true)
include h

theorem fieldOp_of_covers (hm : fieldOp r.mask = 0xF) : fieldOp w = r.pattern.toNat / 4096 :=
  calc fieldOp w = fieldOp w % 2 ^ 4 := (Nat.mod_eq_of_lt (fieldOp_lt w)).symm
    _ = fieldOp (w &&& r.mask) := by rw [fieldOp_and, hm, ← Nat.and_two_pow_sub_one_eq_mod]
    _ = r.pattern.toNat / 4096 := by rw [OpcodeRow.and_mask_of_covers h, fieldOp]

theorem fieldN_of_covers (hm : fieldN r.mask = 0xF#4) : (fieldN w).toNat = r.pattern.toNat % 16 := by
  rw [← toNat_fieldN, ← OpcodeRow.and_mask_of_covers h, fieldN_and, hm]
  exact congrArg _ BitVec.and_allOnes.symm

theorem fieldNn_of_covers (hm : fieldNn r.mask = 0xFF#8) : (fieldNn w).toNat = r.pattern.toNat % 256 := by
  rw [← toNat_fieldNn, ← OpcodeRow.and_mask_of_covers h, fieldNn_and, hm]
  exact congrArg _ BitVec.and_allOnes.symm

end

/-! ### Rows and instructions -/

/-- Every mask keeps the whole high nibble. -/
theorem fieldOp_row_mask (i : Instr) : fieldOp i.row.mask = 0xF := by
  cases i <;> simp [Instr.row, fieldOp]

theorem exists_row_eq {r : OpcodeRow} (h : r ∈ opcodeTable) : ∃ i : Instr, i.row = r := by
  revert r
  simp only [opcodeTable, tableW, tableNnn, tableXnn, tableXy, tableXyn, tableXk, List.forall_mem_append,
    List.forall_mem_cons, exists_apply_eq_apply]
  simp

open Laws.TableRow in
theorem row_covers_encode (i : Instr) : i.row.covers (encode i) = true := by
  cases i
  exacts [nop, cls, ret, jp _, call _, seImm _ _, sneImm _ _, seReg _ _, ldImm _ _, addImm _ _, ldReg _ _, orReg _ _,
    andReg _ _, xorReg _ _, addReg _ _, subReg _ _, shr _ _, subn _ _, shl _ _, sneReg _ _, ldI _, jpV0 _, rnd _ _,
    drw _ _ _, skp _, sknp _, ldVxDt _, ldVxK _, ldDtVx _, ldStVx _, addI _, ldF _, ldB _, ldMemVx _, ldVxMem _]

theorem row_covers_of_decode {w : Word} {i : Instr} (h : decode w = .instr i) : i.row.covers w = true :=
  decode_eq_instr_iff.mp h ▸ row_covers_encode i

/-- A word that matches an instruction's row decodes to an instruction of that row: the row fixes the fields by which
the decoder selects. -/
theorem exists_decode_of_row_covers {w : Word} {i : Instr} (h : i.row.covers w = true) :
    ∃ j, decode w = .instr j ∧ j.row = i.row := by
  have hop := fieldOp_of_covers h (fieldOp_row_mask i)
  cases i <;> simp only [Instr.row] at h
  case nop | cls | ret =>
    obtain rfl : w = _ := BitVec.and_allOnes.symm.trans (OpcodeRow.and_mask_of_covers h)
    exact ⟨_, rfl, rfl⟩
  case jp | call | seImm | sneImm | ldImm | addImm | ldI | jpV0 | rnd | drw => simp [decode, hop, Instr.row]
  case seReg | sneReg =>
    have hn : fieldN w = 0#4 := BitVec.eq_of_toNat_eq (fieldN_of_covers h rfl)
    simp [decode, hop, hn, Instr.row]
  case ldReg | orReg | andReg | xorReg | addReg | subReg | shr | subn | shl =>
    simp [decode, hop, decodeGroup8, fieldN_of_covers h rfl, Instr.row]
  case skp | sknp => simp [decode, hop, decodeGroupE, fieldNn_of_covers h rfl, Instr.row]
  case ldVxDt | ldVxK | ldDtVx | ldStVx | addI | ldF | ldB | ldMemVx | ldVxMem =>
    simp [decode, hop, decodeGroupF, fieldNn_of_covers h rfl, Instr.row]

theorem exists_decode_of_covers {r : OpcodeRow} {w : Word} (hr : r ∈ opcodeTable) (h : r.covers w = true) :
    ∃ j, decode w = .instr j ∧ j.row = r := by
  obtain ⟨i, rfl⟩ := exists_row_eq hr
  exact exists_decode_of_row_covers h

/-- Settles O3: a word matches the row of the instruction it decodes to, and any row it matches is that of what it
decodes to. -/
theorem decodeFollowsTheOpcodeTable : Obligations.DecodeFollowsTheOpcodeTable := by
  refine fun w => ⟨fun i hi => ⟨row_covers_of_decode hi, fun r hr hrw => ?_⟩, ?_, ?_⟩
  · obtain ⟨j, hj, hrow⟩ := exists_decode_of_covers hr hrw
    rw [← hrow, Decoded.instr.inj (hj.symm.trans hi)]
  · rintro ⟨r, hr, hrw⟩
    obtain ⟨j, hj, -⟩ := exists_decode_of_covers hr hrw
    exact ⟨j, hj⟩
  · rintro ⟨i, hi⟩
    exact ⟨i.row, row_mem_opcodeTable i, row_covers_of_decode hi⟩

end Sys2Proof
end

section
/-! # Unknown words (30_encoding.md R77, 40_cycle_and_decode.md R106) -/

namespace Sys2Proof

open Sys2Proof.Machine Sys2Proof.Safety

/-! ### Which words are unknown, group by group -/

theorem fieldN_eq_zero_iff (w : Word) : fieldN w = 0#4 ↔ w.toNat % 16 = 0 := by
  rw [← toNat_fieldN, BitVec.toNat_eq]
  rfl

theorem decodeGroup0_eq_unknown_iff (w : Word) :
    decodeGroup0 w = .unknown w ↔ w ≠ 0x0000#16 ∧ w ≠ 0x00E0#16 ∧ w ≠ 0x00EE#16 := by
  unfold decodeGroup0
  split_ifs <;> simp_all

theorem decodeGroup8_eq_unknown_iff (w : Word) :
    decodeGroup8 w = .unknown w ↔ w.toNat % 16 ∈ [0x8, 0x9, 0xA, 0xB, 0xC, 0xD, 0xF] := by
  have hlt := (fieldN w).isLt
  unfold decodeGroup8
  rw [← toNat_fieldN]
  split
  case h_10 =>
    simp at *
    omega
  all_goals next hn => simp [hn]

theorem decodeGroupE_eq_unknown_iff (w : Word) :
    decodeGroupE w = .unknown w ↔ w.toNat % 256 ∉ [0x9E, 0xA1] := by
  unfold decodeGroupE
  rw [← toNat_fieldNn]
  split
  case h_3 => simp_all
  all_goals next hnn => simp [hnn]

theorem decodeGroupF_eq_unknown_iff (w : Word) :
    decodeGroupF w = .unknown w ↔ w.toNat % 256 ∉ [0x07, 0x0A, 0x15, 0x18, 0x1E, 0x29, 0x33, 0x55, 0x65] := by
  unfold decodeGroupF
  rw [← toNat_fieldNn]
  split
  case h_10 => simp_all
  all_goals next hnn => simp [hnn]

/-- Only six of the sixteen groups have unknown words. -/
theorem decode_eq_unknown_iff (w : Word) : decode w = .unknown w ↔
    (fieldOp w = 0x0 ∧ decodeGroup0 w = .unknown w) ∨ (fieldOp w = 0x5 ∧ fieldN w ≠ 0#4) ∨
    (fieldOp w = 0x8 ∧ decodeGroup8 w = .unknown w) ∨ (fieldOp w = 0x9 ∧ fieldN w ≠ 0#4) ∨
    (fieldOp w = 0xE ∧ decodeGroupE w = .unknown w) ∨ (fieldOp w = 0xF ∧ decodeGroupF w = .unknown w) := by
  have hlt := fieldOp_lt w
  unfold decode
  split
  case h_17 =>
    simp only [imp_false] at *
    omega
  all_goals next hop => simp [hop]

/-! ### What performing one does -/

theorem Safety.ChangesOnly.setDiag {T : Part → Prop} {s t : State} (h : ChangesOnly T s t) {d : Option Diag}
    (hd : T .diag) : ChangesOnly T s (t.setDiag d) := by
  intro p hp
  have ht := h p hp
  cases p with
  | diag => exact absurd hd hp
  | _ => exact ht

theorem perform_unknown {w : Word} (h : decode w = .unknown w) (pc0 : Word) (s : State) :
    perform w pc0 s = .next (s.setDiag (some ⟨w, pc0⟩)) := by
  simp [perform, h]

/-- Settles O4: each group's part of the decoder says which of its words are unknown, and the diagnostic event is the
only update of an unknown word. -/
theorem unknownWordsAreTheListedGroups : Obligations.UnknownWordsAreTheListedGroups := by
  refine ⟨fun w => ?_, fun w pc0 s h => ⟨_, perform_unknown h pc0 s, rfl, ChangesOnly.refl.setDiag rfl⟩⟩
  rw [← decodeGroup0_eq_unknown_iff, ← decodeGroup8_eq_unknown_iff, ← decodeGroupE_eq_unknown_iff,
    ← decodeGroupF_eq_unknown_iff, Ne, ← fieldN_eq_zero_iff]
  exact decode_eq_unknown_iff w

end Sys2Proof
end

section
/-! # The assembler's lines (30_encoding.md R80, R81) -/

namespace Sys2Proof

/-! ### Operands as numbers: in range, and back -/

theorem regOk_val (x : Reg) : regOk x.val = true := decide_eq_true (by omega)
theorem regOk_toNat (n : Nibble) : regOk n.toNat = true := decide_eq_true (by omega)
theorem nnnOk_toNat (v : Addr12) : nnnOk v.toNat = true := decide_eq_true (by omega)
theorem nnOk_toNat (v : Byte) : nnOk v.toNat = true := decide_eq_true (by omega)
theorem nOk_toNat (n : Nibble) : nOk n.toNat = true := decide_eq_true (by omega)

theorem regOfNat_val (x : Reg) : regOfNat x.val = x := Fin.ofNat_val_eq_self x

theorem val_regOfNat {x : Nat} (h : regOk x = true) : (regOfNat x).val = x :=
  Nat.mod_eq_of_lt (Nat.lt_succ_of_le (of_decide_eq_true h))

theorem toNat_ofNat_of_nnnOk {v : Nat} (h : nnnOk v = true) : (BitVec.ofNat 12 v).toNat = v :=
  Nat.mod_eq_of_lt (Nat.lt_succ_of_le (of_decide_eq_true h))

theorem toNat_ofNat_of_nnOk {v : Nat} (h : nnOk v = true) : (BitVec.ofNat 8 v).toNat = v :=
  Nat.mod_eq_of_lt (Nat.lt_succ_of_le (of_decide_eq_true h))

/-- Also for a count of registers, whose check `regOk` is the same bound. -/
theorem toNat_ofNat_of_nOk {n : Nat} (h : nOk n = true) : (BitVec.ofNat 4 n).toNat = n :=
  Nat.mod_eq_of_lt (Nat.lt_succ_of_le (of_decide_eq_true h))

/-! ### Lines and instructions -/

theorem wellFormed_line (i : Instr) : i.line.wellFormed = true := by
  cases i <;> simp [Instr.line, AsmLine.wellFormed, regOk_val, regOk_toNat, nnnOk_toNat, nnOk_toNat, nOk_toNat]

theorem item_line (i : Instr) : i.line.item = .instr i := by
  cases i <;> simp [Instr.line, AsmLine.item, regOfNat_val]

/-- A line in range is the line of the instruction it stands for. -/
theorem line_eq_of_item_eq {l : AsmLine} {i : Instr} (hwf : l.wellFormed = true) (hi : l.item = .instr i) :
    i.line = l := by
  cases l <;> cases hi
  case nop | cls | ret => rfl
  case jp | call | ldI | jpV0 => exact congrArg _ (toNat_ofNat_of_nnnOk hwf)
  case seImm | sneImm | ldImm | addImm | rnd =>
    obtain ⟨hx, hv⟩ := Bool.and_eq_true_iff.mp hwf
    exact congrArg₂ _ (val_regOfNat hx) (toNat_ofNat_of_nnOk hv)
  case seReg | sneReg | ldReg | orReg | andReg | xorReg | addReg | subReg | shr | subn | shl =>
    obtain ⟨hx, hy⟩ := Bool.and_eq_true_iff.mp hwf
    exact congrArg₂ _ (val_regOfNat hx) (val_regOfNat hy)
  case drw =>
    obtain ⟨hxy, hn⟩ := Bool.and_eq_true_iff.mp hwf
    obtain ⟨hx, hy⟩ := Bool.and_eq_true_iff.mp hxy
    simp only [Instr.line, val_regOfNat hx, val_regOfNat hy, toNat_ofNat_of_nOk hn]
  case skp | sknp | ldVxDt | ldVxK | ldDtVx | ldStVx | addI | ldF | ldB => exact congrArg _ (val_regOfNat hwf)
  case ldMemVx | ldVxMem => exact congrArg _ (toNat_ofNat_of_nOk hwf)

/-! ### The bytes of a line -/

theorem assemble_of_wellFormed {l : AsmLine} (h : l.wellFormed = true) : l.assemble = some l.item.bytes := if_pos h

theorem assemble_of_not_wellFormed {l : AsmLine} (h : l.wellFormed = false) : l.assemble = none := by
  simp [AsmLine.assemble, h]

theorem assemble_of_item_eq {l : AsmLine} {i : Instr} (hwf : l.wellFormed = true) (hi : l.item = .instr i) :
    l.assemble = some [hiByte (encode i), loByte (encode i)] := by
  rw [assemble_of_wellFormed hwf, hi]
  rfl

theorem toNat_hiByte_loByte (w : Word) : (hiByte w).toNat * 256 + (loByte w).toNat = w.toNat := by
  have hw := w.isLt
  simp only [hiByte, loByte, BitVec.extractLsb'_toNat, Nat.shiftRight_eq_div_pow]
  omega

/-- Settles O7: a line in range keeps its numbers through the operands' widths, and its bytes are those of the word it
stands for. -/
theorem assemblerLinesAreTheInstructions : Obligations.AssemblerLinesAreTheInstructions := by
  refine ⟨fun i => ⟨wellFormed_line i, item_line i⟩, fun _ _ => line_eq_of_item_eq,
    fun _ => assemble_of_not_wellFormed, fun l i hwf hi => ⟨_, _, assemble_of_item_eq hwf hi, ?_⟩,
    fun v hv => ⟨_, _, assemble_of_wellFormed (decide_eq_true hv), ?_⟩,
    fun v hv => ⟨_, assemble_of_wellFormed (decide_eq_true hv), toNat_ofNat_of_nnOk (decide_eq_true hv)⟩⟩
  · rw [wordOfBytes_hi_lo, decode_encode]
  · rw [toNat_hiByte_loByte]
    exact Nat.mod_eq_of_lt (Nat.lt_succ_of_le hv)

end Sys2Proof
end

section
/-! # The cycle's outcomes, and the fetch inside the memory (40_cycle_and_decode.md R100 to R106) -/

namespace Sys2Proof

open Sys2Proof.Machine Sys2Proof.Safety

/-! ### What a cycle does, by the state of the machine -/

/-- The four ways a cycle goes: frozen, waiting, a fetch beyond the memory, and a fetch inside it. -/
theorem cycle_cases (s : State) :
    Frozen s ∨ Waiting s ∨ (Running s ∧ 0xFFE < s.pc.toNat) ∨ (Running s ∧ s.pc.toNat ≤ 0xFFE) := by
  cases hf : s.faulted with
  | true => exact .inl hf
  | false =>
    cases hw : s.waiting with
    | true => exact .inr (.inl ⟨hw, hf⟩)
    | false => exact .inr (.inr ((Nat.lt_or_ge 0xFFE s.pc.toNat).imp (⟨⟨hw, hf⟩, ·⟩) (⟨⟨hw, hf⟩, ·⟩)))

/-- The phases touch neither PC nor the memory, so that the cycle fetches the word at the PC it began with. -/
theorem cycle_of_fetch {s : State} (keys : BitVec 16) (rand : Byte) (hrun : Running s) (hpc : s.pc.toNat ≤ 0xFFE) :
    cycle keys rand s = perform (wordAtPc s) s.pc (afterFetch keys rand s) :=
  have hin : ¬ (afterPhases keys rand s).fetchOut = true := fun hout =>
    Nat.not_lt.mpr hpc ((State.fetchOut_iff _).mp hout)
  (cycle_running keys rand hrun).trans (if_neg hin)

theorem perform_instr {w : Word} {i : Instr} (h : decode w = .instr i) (pc0 : Word) (s : State) :
    perform w pc0 s = exec i s := by
  simp [perform, h]

/-- Settles O12: the fetch reads the word at PC, and performing it is the instruction's meaning. -/
theorem cycleExecutesTheInstructionAtPc : Obligations.CycleExecutesTheInstructionAtPc :=
  fun keys rand _ _ hrun hpc hdec => (cycle_of_fetch keys rand hrun hpc).trans (perform_instr hdec _ _)

/-- Taking the next input touches none of the fields a fetch reads. -/
theorem step_of_fetch {s : State} {i : Instr} (hrun : Running s) (hpc : s.pc.toNat ≤ 0xFFE)
    (hdec : decode (wordAtPc s) = .instr i) :
    step s = exec i (afterFetch s.nextInput.keys s.nextInput.rand s.takeInput) :=
  (step_cycle hrun.2).trans (cycleExecutesTheInstructionAtPc _ _ s.takeInput i hrun hpc hdec)

/-- Settles O13: a step is the cycle with the next input, which is the head of the list or the free values. -/
theorem stepRunsTheDecodedInstruction : Obligations.StepRunsTheDecodedInstruction := by
  refine fun s i hrun hpc hdec => ⟨fun c rest hin => ?_, fun hin => ?_⟩
  · rw [step_of_fetch hrun hpc hdec]
    simp only [State.nextInput, State.takeInput, hin, List.tail_cons]
  · rw [step_of_fetch hrun hpc hdec]
    simp only [State.nextInput, State.takeInput, hin, List.tail_nil]

/-! ### Unknown words, frozen ticks and NOP -/

theorem Safety.ChangesOnly.afterFetch {T : Part → Prop} {s t : State} (h : ChangesOnly T s t) (keys : BitVec 16)
    (rand : Byte) (hT : ∀ p, phaseParts p → T p) (hpc : T .pc) : ChangesOnly T s (afterFetch keys rand t) :=
  (h.afterPhases keys rand hT).setPc hpc

/-- Settles O14: after the phases and the fetch increment, the diagnostic event is the only update. -/
theorem unknownWordIsADiagnosticNoOp : Obligations.UnknownWordIsADiagnosticNoOp := by
  rintro keys rand s _ hrun hpc rfl hdec
  refine ⟨_, (cycle_of_fetch keys rand hrun hpc).trans (perform_unknown hdec _ _), rfl, rfl, rfl, hrun.2, ?_⟩
  exact (ChangesOnly.refl.afterFetch keys rand (fun _ => .inr) (.inl rfl)).setDiag (.inr trivial)

/-- Settles O17: the only update of a frozen tick ends the event of the cycle before. -/
theorem frozenMachineIgnoresTicks : Obligations.FrozenMachineIgnoresTicks := by
  refine fun keys rand s hf => ⟨⟨_, cycle_frozen keys rand hf, rfl, hf, ChangesOnly.refl.setDiag rfl⟩, fun hd => ?_⟩
  have hsame : s.frozenTick = s := by
    rw [State.frozenTick_eq, ← hd]
    rfl
  rw [cycle_frozen keys rand hf, hsame]

/-- Settles O20: the meaning of NOP answers the state it is given. -/
theorem nopChangesNothing : Obligations.NopChangesNothing := ⟨rfl, fun s => ⟨s, rfl, .refl⟩⟩

end Sys2Proof
end

section
/-! # The configuration: kept by every step, and LEGACY read at five places (40_cycle_and_decode.md R104) -/

namespace Sys2Proof

open Sys2Proof.Machine Sys2Proof.Safety

/-! ### An instruction that reads no mode -/

/-- The five places of R104: 8xy6, 8xyE, Bnnn, Fx55 and Fx65. -/
def ReadsMode : Instr → Prop
  | .shr _ _ | .shl _ _ | .jpV0 _ | .ldMemVx _ | .ldVxMem _ => True
  | _ => False

theorem not_readsMode {i : Instr} (hshift : ∀ x y, i ≠ .shr x y ∧ i ≠ .shl x y) (hjp : ∀ nnn, i ≠ .jpV0 nnn)
    (hmem : ∀ n, i ≠ .ldMemVx n ∧ i ≠ .ldVxMem n) : ¬ ReadsMode i := by
  cases i
  case shr x y => exact absurd rfl (hshift x y).1
  case shl x y => exact absurd rfl (hshift x y).2
  case jpV0 nnn => exact absurd rfl (hjp nnn)
  case ldMemVx n => exact absurd rfl (hmem n).1
  case ldVxMem n => exact absurd rfl (hmem n).2
  all_goals exact id

/-- The same machine with LEGACY set to the value. -/
def withMode (b : Bool) (s : State) : State := { s with cfg := { s.cfg with legacyMode := b } }

/-- The instruction keeps the configuration and does the same whatever the mode is. -/
def ModeBlind (i : Instr) (s : State) : Prop :=
  ∃ t, exec i s = .next t ∧ t.cfg = s.cfg ∧ ∀ b, exec i (withMode b s) = .next (withMode b t)

theorem skipIf_cfg (s : State) (c : Bool) : (s.skipIf c).cfg = s.cfg := by cases c <;> rfl

theorem skipIf_withMode (b : Bool) (s : State) (c : Bool) : (withMode b s).skipIf c = withMode b (s.skipIf c) := by
  cases c <;> rfl

theorem modeBlind_of_skip {i : Instr} {s : State} {c : State → Bool}
    (hexec : ∀ s, exec i s = .next (s.skipIf (c s))) (hc : ∀ b, c (withMode b s) = c s) : ModeBlind i s :=
  ⟨_, hexec s, skipIf_cfg s _, fun b => by rw [hexec, hc, skipIf_withMode]⟩

/-- An instruction that faults where `c` holds and else answers `f s`. -/
theorem modeBlind_of_checked {i : Instr} {s : State} {code : FaultCode} {c : State → Prop} [DecidablePred c]
    {f : State → State} (hexec : ∀ s, exec i s = if c s then .next (s.raise code i) else .next (f s))
    (hc : ∀ b, c (withMode b s) ↔ c s) (hcfg : (f s).cfg = s.cfg) (hf : ∀ b, f (withMode b s) = withMode b (f s)) :
    ModeBlind i s := by
  by_cases hcs : c s
  · exact ⟨s.raise code i, by rw [hexec, if_pos hcs], rfl, fun b => by rw [hexec, if_pos ((hc b).mpr hcs)]; rfl⟩
  · exact ⟨f s, by rw [hexec, if_neg hcs], hcfg, fun b => by rw [hexec, if_neg (mt (hc b).mp hcs), hf]⟩

theorem modeBlind_of_keySkip {i : Instr} {s : State} {x : Reg} {c : State → Reg → Bool}
    (hexec : ∀ s, exec i s = match keyIndex (s.getV x) with
      | none => .next (s.raise .keyRange i)
      | some k => .next (s.skipIf (c s k)))
    (hc : ∀ b k, c (withMode b s) k = c s k) : ModeBlind i s := by
  have hx (b : Bool) : (withMode b s).getV x = s.getV x := rfl
  unfold ModeBlind
  simp only [hexec, hx, hc, skipIf_withMode]
  cases keyIndex (s.getV x) with
  | none => exact ⟨_, rfl, rfl, fun _ => rfl⟩
  | some k => exact ⟨_, rfl, skipIf_cfg s _, fun _ => rfl⟩

theorem modeBlind_ldVxK (x : Reg) (s : State) : ModeBlind (.ldVxK x) s := by
  have hkey (b : Bool) : (withMode b s).lowestPressed = s.lowestPressed := rfl
  refine ⟨s.awaitKey x, rfl, ?_, fun b => congrArg Host.Outcome.next ?_⟩
  · cases hk : s.lowestPressed <;> simp [State.awaitKey, hk]
  · cases hk : s.lowestPressed <;> simp [State.awaitKey, hkey, hk] <;> rfl

/-- Every instruction but the five of R104 is blind to the mode. -/
theorem modeBlind_of_not_readsMode {i : Instr} (h : ¬ ReadsMode i) (s : State) : ModeBlind i s := by
  cases i
  case shr | shl | jpV0 | ldMemVx | ldVxMem => exact absurd trivial h
  case seImm | sneImm | seReg | sneReg => exact modeBlind_of_skip (fun _ => rfl) (fun _ => rfl)
  case ret | call | drw | ldB => exact modeBlind_of_checked (fun _ => rfl) (fun _ => .rfl) rfl (fun _ => rfl)
  case skp | sknp => exact modeBlind_of_keySkip (fun _ => rfl) (fun _ _ => rfl)
  case ldVxK x => exact modeBlind_ldVxK x s
  case nop | cls | jp | ldI | addI | ldF | ldDtVx | ldStVx => exact ⟨_, rfl, rfl, fun _ => rfl⟩
  case ldImm | addImm | ldReg | orReg | andReg | xorReg | addReg | subReg | subn | rnd | ldVxDt =>
    exact ⟨_, rfl, rfl, fun _ => rfl⟩

/-! ### Every step keeps the configuration -/

theorem bumpI_cfg (s : State) (n : Nibble) : (s.bumpI n).cfg = s.cfg := by
  cases hm : s.cfg.legacyMode <;> simp [State.bumpI, hm]

/-- A block transfer keeps the configuration, whether it faults or not. -/
theorem exec_cfg_of_transfer {i : Instr} {s u : State} {n : Nibble} {c : Prop} [Decidable c] {code : FaultCode}
    (hexec : exec i s = if c then .next (s.raise code i) else .next (u.bumpI n)) (hu : u.cfg = s.cfg) :
    ∃ t, exec i s = .next t ∧ t.cfg = s.cfg := by
  by_cases hc : c
  · exact ⟨_, hexec.trans (if_pos hc), rfl⟩
  · exact ⟨_, hexec.trans (if_neg hc), (bumpI_cfg u n).trans hu⟩

theorem exec_cfg (i : Instr) (s : State) : ∃ t, exec i s = .next t ∧ t.cfg = s.cfg := by
  by_cases h : ReadsMode i
  · cases i
    case shr | shl | jpV0 => exact ⟨_, rfl, rfl⟩
    case ldMemVx | ldVxMem => exact exec_cfg_of_transfer rfl rfl
    all_goals exact h.elim
  · obtain ⟨t, ht, hcfg, -⟩ := modeBlind_of_not_readsMode h s
    exact ⟨t, ht, hcfg⟩

theorem perform_cfg (w pc0 : Word) (s : State) : ∃ t, perform w pc0 s = .next t ∧ t.cfg = s.cfg := by
  cases hd : decode w with
  | instr i => simpa only [perform_instr hd] using exec_cfg i s
  | unknown u =>
    obtain rfl : u = w := eq_of_decode_eq_unknown hd
    exact ⟨_, perform_unknown hd pc0 s, rfl⟩

theorem wake_cfg (s : State) : s.wake.cfg = s.cfg := by
  cases hk : s.lowestPressed <;> simp [State.wake, hk]

theorem cycle_cfg (keys : BitVec 16) (rand : Byte) (s : State) : ∃ t, cycle keys rand s = .next t ∧ t.cfg = s.cfg := by
  obtain hf | hw | ⟨hrun, hpc⟩ | ⟨hrun, hpc⟩ := cycle_cases s
  · exact ⟨_, cycle_frozen keys rand hf, rfl⟩
  · exact ⟨_, cycle_waiting keys rand hw, wake_cfg _⟩
  · exact ⟨_, cycle_of_fetch_beyond_memory keys rand hrun hpc, rfl⟩
  · rw [cycle_of_fetch keys rand hrun hpc]
    exact perform_cfg _ _ _

theorem step_frozen {s : State} (h : Frozen s) : step s = .next s.frozenTick := if_pos h

theorem step_cfg (s : State) : ∃ t, step s = .next t ∧ t.cfg = s.cfg := by
  cases hf : s.faulted with
  | true => exact ⟨_, step_frozen hf, rfl⟩
  | false =>
    rw [step_cycle hf]
    exact cycle_cfg _ _ s.takeInput

/-! ### The five places differ -/

/-- The two modes part on the instruction in a part of the machine other than the configuration. -/
def ModesDiffer (i : Instr) (s : State) : Prop :=
  ∃ t t', exec i s = .next t ∧ exec i (withMode true s) = .next t' ∧ ¬ ChangesOnly (fun p => p = .cfg) t t'

theorem modesDiffer_of_part {i : Instr} {s t t' : State} (p : Part) (hp : p ≠ .cfg) (ht : exec i s = .next t)
    (ht' : exec i (withMode true s) = .next t') (hne : ¬ p.agree t t') : ModesDiffer i s :=
  ⟨t, t', ht, ht', fun h => hne (h p hp)⟩

/-- The reset state, in modern mode, with V1 = 1: V0 and V2 are 0 and I is 0. -/
def modernWithV1 : State := State.reset.setV 1 1#8

theorem modernWithV1_modesDiffer :
    ∀ i ∈ [Instr.shr 1 2, .shl 1 2, .jpV0 0x100#12, .ldMemVx 1#4, .ldVxMem 1#4], ModesDiffer i modernWithV1 := by
  simp only [List.forall_mem_cons, List.not_mem_nil, false_imp_iff, implies_true, and_true]
  refine ⟨?shr, ?shl, ?jpV0, ?ldMemVx, ?ldVxMem⟩
  case shr => exact modesDiffer_of_part (.v VF) nofun rfl rfl (by unfold Part.agree; decide)
  case shl => exact modesDiffer_of_part (.v 1) nofun rfl rfl (by unfold Part.agree; decide)
  case jpV0 => exact modesDiffer_of_part .pc nofun rfl rfl (by unfold Part.agree; decide)
  case ldMemVx | ldVxMem => exact modesDiffer_of_part .i nofun rfl rfl (by unfold Part.agree; decide)

/-- Settles O55: every phase and every instruction keeps the configuration; an instruction but the five is blind to the
mode; and on one state each of the five reads V1 where legacy mode reads V0 or V2, or leaves I where it moves on. -/
theorem legacyModeIsReadAtFivePlaces : Obligations.LegacyModeIsReadAtFivePlaces := by
  refine ⟨step_cfg, fun i s b hshift hjp hmem => ?_, _, _, _, _, modernWithV1, modernWithV1_modesDiffer⟩
  obtain ⟨t, ht, -, hmode⟩ := modeBlind_of_not_readsMode (not_readsMode hshift hjp hmem) s
  exact ⟨t, ht, hmode b⟩

end Sys2Proof
end

section
/-! # Control transfer (41_control_flow.md R120 to R128) -/

namespace Sys2Proof

open Sys2Proof.Machine Sys2Proof.Safety

/-! ### The words of the three packed formats (30_encoding.md R71) -/

theorem toNat_packNnn {op : Nat} (hop : op < 16) (nnn : Addr12) :
    (packNnn op nnn).toNat = op * 4096 + nnn.toNat := Nat.mod_eq_of_lt (by omega)

theorem toNat_packXnn {op : Nat} (hop : op < 16) (x : Reg) (nn : Byte) :
    (packXnn op x nn).toNat = op * 4096 + x.val * 256 + nn.toNat := Nat.mod_eq_of_lt (by omega)

theorem toNat_packXyn {op : Nat} (hop : op < 16) (x y : Reg) (n : Nibble) :
    (packXyn op x y n).toNat = op * 4096 + x.val * 256 + y.val * 16 + n.toNat := Nat.mod_eq_of_lt (by omega)

/-! ### The stack: CALL, RET, and the two together -/

theorem faultTaken_raise (code : FaultCode) (i : Instr) (s : State) : FaultTaken code i s (s.raise code i) :=
  ⟨rfl, rfl, rfl, rfl, rfl, ChangesOnly.refl.raise (.inl rfl) (.inr rfl)⟩

/-- The slot a pop reads is decided by SP and the stack alone. -/
theorem top_congr {s u : State} (hsp : u.sp = s.sp) (hstack : u.stack = s.stack) : u.top = s.top := by
  simp only [State.top, hsp, hstack]

theorem top_eq_slot {s : State} {j : Fin 16} (hj : s.sp.toNat = j.val) : s.top = s.stack[j] := by
  simp only [State.top, hj, Fin.getElem_fin]

theorem exec_ret_of_sp_ne {s : State} (hsp : s.sp ≠ 0#4) : exec .ret s = .next s.popPc := if_neg hsp

theorem exec_call_of_sp_ne (nnn : Addr12) {s : State} (hsp : s.sp ≠ 15#4) :
    exec (.call nnn) s = .next ((s.push s.pc).setPc (zext16 nnn)) := if_neg hsp

theorem toNat_zext16 (nnn : Addr12) : (zext16 nnn).toNat = nnn.toNat := BitVec.toNat_setWidth_of_le (by decide)

/-- Settles O24: the call leaves SP at a slot other than 0 that holds its PC, and the pop reads that slot. -/
theorem returnAfterCallResumes : Obligations.ReturnAfterCallResumes := by
  intro nnn s hs
  refine ⟨_, exec_call_of_sp_ne nnn hs, fun u husp hustack => ?_⟩
  have husp' : u.sp = s.sp + 1#4 := husp
  have hne : u.sp ≠ 0#4 := by bv_omega
  refine ⟨_, exec_ret_of_sp_ne hne, ?_, ?_⟩
  · exact (top_congr (s := s.push s.pc) husp hustack).trans (s.top_push s.pc)
  · exact (congrArg (· - 1#4) husp').trans (BitVec.add_sub_cancel s.sp 1#4)

/-- Settles O21: the two branches of RET are the pop and the fault entry. -/
theorem retPopsOrUnderflows : Obligations.RetPopsOrUnderflows := by
  refine ⟨rfl, fun s j hj hj0 => ?_, fun s hsp => ⟨_, if_pos hsp, faultTaken_raise _ _ s⟩⟩
  have hpos : j.val ≠ 0 := Fin.val_ne_zero_iff.mpr hj0
  have hsp : s.sp ≠ 0#4 := by bv_omega
  have hpred : (s.sp - 1#4).toNat = j.val - 1 := by bv_omega
  exact ⟨_, exec_ret_of_sp_ne hsp, top_eq_slot hj, hpred, ChangesOnly.refl.popPc (.inl rfl) (.inr rfl)⟩

/-- Settles O23: the two branches of CALL are the push with the jump, and the fault entry. -/
theorem callPushesOrOverflows : Obligations.CallPushesOrOverflows := by
  intro nnn s
  refine ⟨toNat_packNnn (by decide) nnn, fun j hj => ?_, fun hsp => ⟨_, if_pos hsp, faultTaken_raise _ _ s⟩⟩
  have hsp : s.sp ≠ 15#4 := by bv_omega
  have hnext : (s.sp + 1#4).toNat = j.val := by bv_omega
  have hslot : (s.push s.pc).stack[j] = s.pc := (top_eq_slot hnext).symm.trans (s.top_push s.pc)
  have hframe : ChangesOnly (fun p => p = .sp ∨ p = .slot j ∨ p = .pc) s (s.push s.pc) :=
    ChangesOnly.refl.push (.inl rfl) fun k hk => .inr (.inl (congrArg Part.slot (Fin.ext (hk.trans hnext))))
  exact ⟨_, exec_call_of_sp_ne nnn hsp, hnext, hslot, toNat_zext16 nnn, hframe.setPc (.inr (.inr rfl))⟩

/-! ### Jumps -/

/-- Settles O22: the target is zero-extended, and PC is the only update. -/
theorem jpSetsPc : Obligations.JpSetsPc := fun nnn _ =>
  ⟨toNat_packNnn (by decide) nnn, _, rfl, toNat_zext16 nnn, ChangesOnly.refl.setPc rfl⟩

theorem topNibble_eq (nnn : Addr12) : topNibble nnn = Fin.ofNat 16 (nnn.toNat / 256) := by
  apply Fin.ext
  simp [topNibble, Nat.shiftRight_eq_div_pow]

/-- A 12-bit target plus a byte is at most 0x10FE, so that the 16-bit sum is not reduced. -/
theorem toNat_zext16_add_zextByte (nnn : Addr12) (b : Byte) :
    (zext16 nnn + zextByte b).toNat = nnn.toNat + b.toNat := by
  have hb : (zextByte b).toNat = b.toNat := BitVec.toNat_setWidth_of_le (by decide)
  rw [BitVec.toNat_add, toNat_zext16, hb]
  omega

/-- Settles O27: the base register is V[0] or that of the top nibble, and the sum stays below 65536. -/
theorem jpV0AddsTheBaseRegister : Obligations.JpV0AddsTheBaseRegister := by
  intro nnn s
  refine ⟨toNat_packNnn (by decide) nnn, _, rfl, ?_, ChangesOnly.refl.setPc rfl⟩
  rw [← topNibble_eq]
  exact toNat_zext16_add_zextByte nnn (s.jumpBase nnn)

/-! ### Skips -/

/-- An instruction that skips where `c` holds. -/
theorem exec_of_skipIf {i : Instr} {s : State} {c : Prop} [Decidable c]
    (hexec : exec i s = .next (s.skipIf (decide c))) :
    ∃ t, exec i s = .next t ∧ t.pc.toNat = (if c then (s.pc.toNat + 2) % 65536 else s.pc.toNat) ∧
      ChangesOnly (fun p => p = .pc) s t := by
  refine ⟨_, hexec, ?_, ChangesOnly.refl.skipIf rfl⟩
  by_cases hc : c
  · rw [decide_eq_true hc, if_pos hc]
    exact BitVec.toNat_add s.pc 2#16
  · rw [decide_eq_false hc, if_neg hc]
    rfl

/-- An instruction that skips where `c` does not hold. -/
theorem exec_of_skipIf_not {i : Instr} {s : State} {c : Prop} [Decidable c]
    (hexec : exec i s = .next (s.skipIf (decide (¬ c)))) :
    ∃ t, exec i s = .next t ∧ t.pc.toNat = (if c then s.pc.toNat else (s.pc.toNat + 2) % 65536) ∧
      ChangesOnly (fun p => p = .pc) s t := by
  simpa only [ite_not] using exec_of_skipIf hexec

/-- Settles O25: SE skips where register and immediate are equal, SNE where they are not. -/
theorem immediateSkips : Obligations.ImmediateSkips := fun x nn _ =>
  ⟨toNat_packXnn (by decide) x nn, toNat_packXnn (by decide) x nn, exec_of_skipIf rfl, exec_of_skipIf_not rfl⟩

/-- Settles O26: SE skips where the two registers are equal, SNE where they are not. -/
theorem registerSkips : Obligations.RegisterSkips := fun x y _ =>
  ⟨toNat_packXyn (by decide) x y 0#4, toNat_packXyn (by decide) x y 0#4, exec_of_skipIf rfl, exec_of_skipIf_not rfl⟩

end Sys2Proof
end

section
/-! # Datapath (42_alu.md R140 to R155) -/

namespace Sys2Proof

open Sys2Proof.Machine Sys2Proof.Safety

/-! ### One register written, with no flag -/

theorem getV_setV_self (s : State) (x : Reg) (b : Byte) : (s.setV x b).getV x = b :=
  (s.getV_setV x x b).trans (if_pos rfl)

theorem getV_setV_of_ne {r x : Reg} (h : r ≠ x) (s : State) (b : Byte) : (s.setV x b).getV r = s.getV r :=
  (s.getV_setV x r b).trans (if_neg h)

/-- An instruction that puts `b` into V[x]. -/
theorem exec_of_setV {i : Instr} {s : State} {x : Reg} {b : Byte} (hexec : exec i s = .next (s.setV x b)) :
    ∃ t, exec i s = .next t ∧ t.getV x = b ∧ ChangesOnly (fun p => p = .v x) s t :=
  ⟨_, hexec, getV_setV_self s x b, ChangesOnly.refl.setV rfl⟩

/-- An instruction that puts into V[x] the byte whose bits `f` gives. -/
theorem exec_of_setV_bits {i : Instr} {s : State} {x : Reg} {b : Byte} {f : Nat → Bool}
    (hexec : exec i s = .next (s.setV x b)) (hbits : ∀ k, b.getLsbD k = f k) :
    ∃ t, exec i s = .next t ∧ (∀ k, (t.getV x).getLsbD k = f k) ∧ ChangesOnly (fun p => p = .v x) s t := by
  obtain ⟨t, ht, rfl, hframe⟩ := exec_of_setV hexec
  exact ⟨t, ht, hbits, hframe⟩

/-- Settles O28: each of the three is one write to V[x], and the byte sum is the sum modulo 256. -/
theorem loadsAndAddImmediate : Obligations.LoadsAndAddImmediate := by
  intro x y nn s
  refine ⟨toNat_packXnn (by decide) x nn, toNat_packXnn (by decide) x nn, toNat_packXyn (by decide) x y 0#4,
    exec_of_setV rfl, ?_, exec_of_setV rfl⟩
  obtain ⟨t, ht, hx, hframe⟩ := exec_of_setV (i := .addImm x nn) (s := s) rfl
  exact ⟨t, ht, hx ▸ BitVec.toNat_add _ _, hframe⟩

/-- A word of group 0x8 with its sub-opcode (R71). -/
theorem toNat_packXyn_group8 (x y : Reg) (n : Nibble) :
    (packXyn 0x8 x y n).toNat = 0x8000 + n.toNat + x.val * 256 + y.val * 16 := by
  rw [toNat_packXyn (by decide)]
  omega

/-- Settles O29: each of the three is one write to V[x], of the operands combined bit by bit. -/
theorem bitwiseLogic : Obligations.BitwiseLogic := fun x y _ =>
  ⟨toNat_packXyn_group8 x y 1#4, toNat_packXyn_group8 x y 2#4, toNat_packXyn_group8 x y 3#4,
    exec_of_setV_bits rfl fun _ => BitVec.getLsbD_or, exec_of_setV_bits rfl fun _ => BitVec.getLsbD_and,
    exec_of_setV_bits rfl fun _ => BitVec.getLsbD_xor⟩

/-- Settles O33: the one write to V[x] is the sampled byte under the mask. -/
theorem rndMasksTheRandomByte : Obligations.RndMasksTheRandomByte := fun x nn _ =>
  ⟨toNat_packXnn (by decide) x nn, exec_of_setV_bits rfl fun _ => BitVec.getLsbD_and⟩

/-! ### The flag in VF, then the result in V[x] (R153) -/

/-- An instruction that writes a flag and then its result: the result is in V[x], even where x = F. -/
theorem exec_of_writeFlagged {i : Instr} {s : State} {x : Reg} {f : Bool} {b : Byte}
    (hexec : exec i s = .next (s.writeFlagged x f b)) :
    ∃ t, exec i s = .next t ∧ t.getV x = b ∧ (x = VF ∨ t.getV VF = flagByte f) ∧
      ChangesOnly (fun p => p = .v x ∨ p = .v VF) s t := by
  refine ⟨_, hexec, getV_setV_self _ x b, ?_, ChangesOnly.refl.writeFlagged (.inl rfl) (.inr rfl)⟩
  refine or_iff_not_imp_left.mpr fun hx => ?_
  exact (getV_setV_of_ne (Ne.symm hx) _ b).trans (getV_setV_self s VF _)

theorem flagByte_decide (c : Prop) [Decidable c] : flagByte (decide c) = if c then 1#8 else 0#8 := by
  simp [flagByte]

/-- Settles O30: the byte sum is the sum modulo 256, and the flag is the carry of the operands' old values. -/
theorem addSetsSumAndCarry : Obligations.AddSetsSumAndCarry := by
  intro x y s
  obtain ⟨t, ht, hx, hvf, hframe⟩ := exec_of_writeFlagged (i := .addReg x y) (s := s) rfl
  exact ⟨toNat_packXyn_group8 x y 4#4, t, ht, hx ▸ BitVec.toNat_add _ _,
    hvf.imp_right (·.trans (flagByte_decide _)), hframe⟩

/-- The difference of two bytes is the integers' difference modulo 256. -/
theorem toNat_sub_eq_emod (a b : Byte) : ((a - b).toNat : Int) = ((a.toNat : Int) - b.toNat) % 256 := by
  rw [BitVec.toNat_sub]
  omega

/-- An instruction that subtracts `b` from `a` into V[x]. -/
theorem exec_of_subtraction {i : Instr} {s : State} {x : Reg} {a b : Byte}
    (hexec : exec i s = .next (s.writeFlagged x (noBorrowFlag a b) (a - b))) :
    ∃ t, exec i s = .next t ∧ ((t.getV x).toNat : Int) = ((a.toNat : Int) - b.toNat) % 256 ∧
      (x = VF ∨ t.getV VF = if b.toNat ≤ a.toNat then 1#8 else 0#8) ∧
      ChangesOnly (fun p => p = .v x ∨ p = .v VF) s t := by
  obtain ⟨t, ht, hx, hvf, hframe⟩ := exec_of_writeFlagged hexec
  exact ⟨t, ht, hx ▸ toNat_sub_eq_emod a b, hvf.imp_right (·.trans (flagByte_decide _)), hframe⟩

/-- Settles O31: SUB takes V[y] from V[x], SUBN V[x] from V[y]. -/
theorem subtractSetsDifferenceAndNoBorrow : Obligations.SubtractSetsDifferenceAndNoBorrow := fun x y _ =>
  ⟨toNat_packXyn_group8 x y 5#4, toNat_packXyn_group8 x y 7#4, exec_of_subtraction rfl,
    exec_of_subtraction rfl⟩

/-! ### Shifts -/

/-- An instruction that writes a flag and then its result, both as numbers. -/
theorem exec_of_writeFlagged_toNat {i : Instr} {s : State} {x : Reg} {f : Bool} {b : Byte} {n m : Nat}
    (hexec : exec i s = .next (s.writeFlagged x f b)) (hb : b.toNat = n) (hf : f.toNat = m) :
    ∃ t, exec i s = .next t ∧ (t.getV x).toNat = n ∧ (x = VF ∨ (t.getV VF).toNat = m) ∧
      ChangesOnly (fun p => p = .v x ∨ p = .v VF) s t := by
  obtain ⟨t, ht, hx, hvf, hframe⟩ := exec_of_writeFlagged hexec
  have hflag : (flagByte f).toNat = f.toNat := by cases f <;> rfl
  exact ⟨t, ht, hx ▸ hb, hvf.imp_right fun h => (congrArg BitVec.toNat h).trans (hflag.trans hf), hframe⟩

theorem toNat_ushiftRight_one (a : Byte) : (a >>> 1).toNat = a.toNat / 2 := by
  rw [BitVec.toNat_ushiftRight, Nat.shiftRight_one]

theorem toNat_shiftLeft_one (a : Byte) : (a <<< 1).toNat = 2 * a.toNat % 256 := by
  rw [BitVec.toNat_shiftLeft, Nat.shiftLeft_eq, Nat.mul_comm, pow_one]

theorem toNat_lowBitFlag (a : Byte) : (lowBitFlag a).toNat = a.toNat % 2 :=
  (Nat.toNat_testBit a.toNat 0).trans (by omega)

/-- Bit 7 is the top bit of a byte, so that nothing stands above it. -/
theorem toNat_highBitFlag (a : Byte) : (highBitFlag a).toNat = a.toNat / 128 :=
  (Nat.toNat_testBit a.toNat 7).trans (by omega)

/-- Settles O32: the value shifted is the model's shift source, and the flag is its bit 0 or bit 7. -/
theorem shiftsByOne : Obligations.ShiftsByOne := by
  intro x y s
  refine ⟨toNat_packXyn_group8 x y 6#4, toNat_packXyn_group8 x y 14#4, ?_⟩
  rintro a (rfl : a = (s.shiftSource x y).toNat)
  exact ⟨exec_of_writeFlagged_toNat rfl (toNat_ushiftRight_one _) (toNat_lowBitFlag _),
    exec_of_writeFlagged_toNat rfl (toNat_shiftLeft_one _) (toNat_highBitFlag _)⟩

/-! ### Which instructions write VF -/

/-- The instruction answers a next state and leaves the registers outside the "writes" column of its row of R22. Unlike
`Framed` this says nothing of the memory, and so holds whatever form the memory has. -/
def KeepsUnwritten (i : Instr) (s : State) : Prop :=
  ∃ t, exec i s = .next t ∧ ∀ r, ¬ regWrites i r → t.getV r = s.getV r

theorem Framed.keepsUnwritten {i : Instr} {s : State} (h : Framed i s) : KeepsUnwritten i s := by
  obtain ⟨t, ht, hframe⟩ := h
  exact ⟨t, ht, fun r hr => hframe (.v r) hr⟩

/-- An instruction that faults where `c` holds and else answers `t`. -/
theorem keepsUnwritten_of_checked {i : Instr} {s t : State} {code : FaultCode} {c : Prop} [Decidable c]
    (hexec : exec i s = if c then .next (s.raise code i) else .next t) (ht : ∀ r, t.getV r = s.getV r) :
    KeepsUnwritten i s := by
  by_cases hc : c
  · exact ⟨_, hexec.trans (if_pos hc), fun _ _ => rfl⟩
  · exact ⟨t, hexec.trans (if_neg hc), fun r _ => ht r⟩

theorem getV_bumpI (s : State) (n : Nibble) (r : Reg) : (s.bumpI n).getV r = s.getV r := by
  cases hm : s.cfg.legacyMode <;> simp [State.bumpI, hm]

theorem getV_skipIf (s : State) (c : Bool) (r : Reg) : (s.skipIf c).getV r = s.getV r := by cases c <;> rfl

/-- Every instruction, in every state, leaves the registers its row of R22 does not say it writes. -/
theorem exec_keepsUnwritten (i : Instr) (s : State) : KeepsUnwritten i s := by
  cases i
  case nop | cls | jp | jpV0 | ldI | ldF | ldDtVx | ldStVx => exact ⟨_, rfl, fun _ _ => rfl⟩
  case seImm | sneImm | seReg | sneReg => exact ⟨_, rfl, fun r _ => getV_skipIf s _ r⟩
  case skp | sknp => exact Framed.keepsUnwritten (framed_of_keySkip rfl trivial fun h => ⟨_, rfl, h⟩)
  case ret | call | ldB => exact keepsUnwritten_of_checked rfl fun _ => rfl
  case ldMemVx n => exact keepsUnwritten_of_checked rfl fun r => getV_bumpI _ n r
  case ldVxMem n => exact (framed_ldVxMem n s).keepsUnwritten
  case drw x y n => exact (framed_drw x y n s).keepsUnwritten
  case ldImm | addImm | ldReg | orReg | andReg | xorReg | rnd | ldVxDt | addI =>
    exact ⟨_, rfl, fun r hr => getV_setV_of_ne hr _ _⟩
  case addReg | subReg | subn | shr | shl =>
    exact Framed.keepsUnwritten ⟨_, rfl, ChangesOnly.refl.writeFlagged (.inl rfl) (.inr rfl)⟩
  case ldVxK x => exact Framed.keepsUnwritten ⟨_, rfl, ChangesOnly.refl.awaitKey rfl ⟨x, rfl⟩ ⟨x, rfl⟩⟩

/-- Settles O54: an instruction that changes VF has VF in the "writes" column of its row, as its flag or as its
destination; the block load stops below VF, because its count is at most 15. -/
theorem onlyTheListedInstructionsWriteVf : Obligations.OnlyTheListedInstructionsWriteVf := by
  intro i s
  obtain ⟨t, ht, hkeep⟩ := exec_keepsUnwritten i s
  refine ⟨t, ht, fun hne => ?_⟩
  have hw : regWrites i VF := not_imp_comm.mp (hkeep VF) hne
  clear ht hkeep hne
  cases i
  case addReg x y | subReg x y | shr x y | subn x y | shl x y => exact .inl ⟨x, y, by simp⟩
  case drw x y n => exact .inr (.inl ⟨x, y, n, rfl⟩)
  case addI x => exact .inr (.inr (.inl ⟨x, rfl⟩))
  case ldImm x nn | addImm x nn | rnd x nn =>
    obtain rfl : VF = x := hw
    exact .inr (.inr (.inr (.inl ⟨nn, by simp⟩)))
  case ldReg x y | orReg x y | andReg x y | xorReg x y =>
    obtain rfl : VF = x := hw
    exact .inr (.inr (.inr (.inr (.inl ⟨y, by simp⟩))))
  case ldVxDt x | ldVxK x =>
    obtain rfl : VF = x := hw
    simp
  case ldVxMem n =>
    have hcount : 15 < n.toNat := hw
    omega
  all_goals exact hw.elim

end Sys2Proof
end

section
/-! # Index register and memory transfers (43_index_memory.md R160 to R168) -/

namespace Sys2Proof

open Sys2Proof.Machine Sys2Proof.Safety

/-- A word of group 0xF with its low byte (R71). -/
theorem toNat_packXnn_groupF (x : Reg) (nn : Byte) : (packXnn 0xF x nn).toNat = 0xF000 + nn.toNat + x.val * 256 := by
  rw [toNat_packXnn (by decide)]
  omega

/-! ### Block transfers: where I is left, and when they fit (R167, R168) -/

theorem readByte_bumpI (s : State) (n : Nibble) (a : Nat) : (s.bumpI n).readByte a = s.readByte a := by
  unfold State.bumpI
  split <;> rfl

theorem toNat_i_bumpI (s : State) (n : Nibble) :
    (s.bumpI n).i.toNat = if s.cfg.legacyMode = true then (s.i.toNat + n.toNat) % 65536 else s.i.toNat := by
  have hn : (n.setWidth 16).toNat = n.toNat := BitVec.toNat_setWidth_of_le (by decide)
  unfold State.bumpI
  split
  · rw [State.setI_i, BitVec.toNat_add, hn]
  · rfl

theorem not_blockOut {s : State} {n : Nat} (h : n = 0 ∨ transferAddr s.cfg s.i.toNat (n - 1) ≤ 0xFFF) :
    ¬ s.blockOut n = true := by
  rw [blockOut_iff]
  omega

/-- A byte of a block stored in range is read back at its address. -/
theorem readByte_writeBytes {s : State} {n a : Nat} {xs : List Byte} (hn : 0 < n) (hok : MemOk s)
    (hin : ∀ k, k < xs.length → a + n * k ≤ topAddr) {k : Nat} (hk : k < xs.length) :
    (s.writeBytes n a xs).readByte (a + n * k) = xs[k] :=
  (Memory.read_writeBlock xs hn hok hin).1 k hk

/-- Settles O37: the transfer's check is that of its last address, so that every address of it fits and each byte is
read back from where it was stored; in legacy mode I moves after it. -/
theorem blockStoreStoresXRegisters : Obligations.BlockStoreStoresXRegisters := by
  intro n s hok
  refine ⟨toNat_packXnn_groupF n.toFin 0x55#8, fun hfit => ?_, fun hpos hout =>
    ⟨_, if_pos ((blockOut_iff s n.toNat).mpr ⟨hpos, hout⟩), faultTaken_raise _ _ s⟩⟩
  have hin := not_blockOut hfit
  obtain ⟨hlen, hget⟩ := s.firstVs_spec n.toNat (by omega)
  have haddr : ∀ k, k < (s.firstVs n.toNat).length → s.i.toNat + blockStride s.cfg * k ≤ topAddr :=
    fun k hk => blockAddr_le_topAddr hin (hlen ▸ hk)
  refine ⟨_, if_neg hin, fun k hk => ?_, toNat_i_bumpI _ n, ?_⟩
  · have hk' : k.val < (s.firstVs n.toNat).length := hk.trans_eq hlen.symm
    rw [readByte_bumpI, ← blockAddr_eq_transferAddr]
    exact (readByte_writeBytes (blockStride_pos s.cfg) hok haddr hk').trans (hget k.val hk' k.isLt)
  · refine ChangesOnly.bumpI ?_ fun _ => .inl rfl
    exact ChangesOnly.refl.writeBytes (blockStride_pos s.cfg) hok haddr fun k hk =>
      .inr ⟨k, hlen ▸ hk, congrArg Part.mem (blockAddr_eq_transferAddr s.cfg s.i.toNat k)⟩

/-- Settles O38: the bytes of the block go into the registers from V[0] on, one each; in legacy mode I moves after the
transfer. -/
theorem blockLoadLoadsXRegisters : Obligations.BlockLoadLoadsXRegisters := by
  intro n s
  refine ⟨toNat_packXnn_groupF n.toFin 0x65#8, fun hfit => ?_, fun hpos hout =>
    ⟨_, if_pos ((blockOut_iff s n.toNat).mpr ⟨hpos, hout⟩), faultTaken_raise _ _ s⟩⟩
  have hlen : (s.readBytes (blockStride s.cfg) s.i.toNat n.toNat).length = n.toNat := Memory.length_readBlock ..
  refine ⟨_, if_neg (not_blockOut hfit), fun k hk => ?_, toNat_i_bumpI _ n, ?_⟩
  · rw [getV_bumpI, State.getV_setVs, dif_pos (hk.trans_eq hlen.symm), ← blockAddr_eq_transferAddr]
    exact Memory.getElem_readBlock ..
  · exact (ChangesOnly.refl.setVs fun r hr => .inr ⟨r, hlen ▸ hr, rfl⟩).bumpI fun _ => .inl rfl

/-! ### The decimal digits (R163) -/

/-- Settles O36: a byte is below 1000, so that each digit fits a byte; the digits are a block of three at I. -/
theorem bcdStoresThreeDigits : Obligations.BcdStoresThreeDigits := by
  intro x s hok
  refine ⟨toNat_packXnn_groupF x 0x33#8, fun hfit => ?_, fun hout =>
    ⟨_, if_pos ((rangeOut_iff s 3).mpr ⟨by decide, by omega⟩), faultTaken_raise _ _ s⟩⟩
  have hin : ¬ s.rangeOut 3 = true := by
    rw [rangeOut_iff]
    omega
  have haddr : ∀ k, k < 3 → s.i.toNat + 1 * k ≤ topAddr := fun k hk => by
    unfold topAddr
    omega
  have hdigit : ∀ k (hk : k < 3), (s.writeBytes 1 s.i.toNat (bcdDigits (s.getV x))).readByte (s.i.toNat + 1 * k) =
      (bcdDigits (s.getV x))[k] := fun k hk =>
    readByte_writeBytes (xs := bcdDigits (s.getV x)) (by decide) hok haddr hk
  refine ⟨_, if_neg hin, ?_, ?_, ?_, ?_⟩
  · exact (congrArg BitVec.toNat (hdigit 0 (by decide))).trans (Nat.mod_eq_of_lt (by omega))
  · exact (congrArg BitVec.toNat (hdigit 1 (by decide))).trans (Nat.mod_eq_of_lt (by omega))
  · exact (congrArg BitVec.toNat (hdigit 2 (by decide))).trans (Nat.mod_eq_of_lt (by omega))
  · refine ChangesOnly.refl.writeBytes (by decide) hok haddr fun k (hk : k < 3) => ?_
    obtain rfl | rfl | rfl : k = 0 ∨ k = 1 ∨ k = 2 := by omega
    · exact .inl rfl
    · exact .inr (.inl rfl)
    · exact .inr (.inr rfl)

/-! ### The index register (R160 to R162) -/

theorem toNat_add_zextByte (a : Word) (b : Byte) : (a + zextByte b).toNat = (a.toNat + b.toNat) % 65536 := by
  have hb : (zextByte b).toNat = b.toNat := BitVec.toNat_setWidth_of_le (by decide)
  rw [BitVec.toNat_add, hb]

theorem indexFlag_eq (c : Config) (i2 : Word) (vf : Byte) :
    indexFlag c i2 vf = if i2.toNat > 1000 then 1#8 else if c.fx1eVfNotOver = .zero then 0#8 else vf := by
  unfold indexFlag
  cases c.fx1eVfNotOver <;> simp

/-- Settles O35: I takes the 16-bit sum, and VF the flag of that sum. -/
theorem addIndexFlagsOverOneThousand : Obligations.AddIndexFlagsOverOneThousand := by
  intro x s
  refine ⟨toNat_packXnn_groupF x 0x1E#8, _, rfl, toNat_add_zextByte s.i (s.getV x), ?_,
    (ChangesOnly.refl.setI (.inl rfl)).setV (.inr rfl)⟩
  rw [getV_setV_self, indexFlag_eq, toNat_add_zextByte]

/-- An instruction that puts `a` into I. -/
theorem exec_of_setI {i : Instr} {s : State} {a : Word} {n : Nat} (hexec : exec i s = .next (s.setI a))
    (ha : a.toNat = n) : ∃ t, exec i s = .next t ∧ t.i.toNat = n ∧ ChangesOnly (fun p => p = .i) s t :=
  ⟨_, hexec, ha, ChangesOnly.refl.setI rfl⟩

theorem toNat_glyphAddr (b : Byte) : (glyphAddr b).toNat = b.toNat * 5 := Nat.mod_eq_of_lt (by omega)

/-- Settles O34: each of the two is one write to I; the address of a glyph is at most 1275 and is not reduced. -/
theorem indexLoads : Obligations.IndexLoads := fun nnn x _ =>
  ⟨toNat_packNnn (by decide) nnn, toNat_packXnn_groupF x 0x29#8, exec_of_setI rfl (toNat_zext16 nnn),
    exec_of_setI rfl (toNat_glyphAddr _)⟩

end Sys2Proof
end

section
/-! # Display (44_display.md R180 to R185)

Each of the two draws is said twice: which cells it flips, and that it collides exactly where a 1 bit lands on a 1 cell.
That such a cell is one that went from 1 to 0 follows from the flips alone. -/

namespace Sys2Proof

open Sys2Proof.Machine Sys2Proof.Safety

/-! ### Cells flipped, cells lost -/

theorem cell_mod (fb : FrameBuffer) (c r : Nat) : fb.cell (c % 64) (r % 32) = fb.cell c r := by
  simp [FrameBuffer.cell]

theorem xor_decide_ne_iff (a : Bool) (p : Prop) [Decidable p] : (a ^^ decide p) ≠ a ↔ p := by
  cases a <;> simp

/-- Where exactly the cells of `On` are flipped, a cell went from 1 to 0 exactly where a cell of `On` was 1. -/
theorem exists_lost_iff {fb fb' : FrameBuffer} {On : Fin 64 → Fin 32 → Prop}
    (hflip : ∀ c r, fb'.cell c.val r.val ≠ fb.cell c.val r.val ↔ On c r) :
    (∃ (c : Fin 64) (r : Fin 32), fb.cell c.val r.val = true ∧ fb'.cell c.val r.val = false) ↔
      ∃ c r, On c r ∧ fb.cell c.val r.val = true := by
  refine exists_congr fun c => exists_congr fun r => ?_
  rw [← hflip c r, and_comm]
  refine and_congr_left fun hone => ?_
  rw [hone, ne_eq, Bool.not_eq_true]

/-! ### One row (R180) -/

theorem drawRow_flips_iff (fb : FrameBuffer) (px py : Nat) (b : Byte) (c : Fin 64) (r : Fin 32) :
    (fb.drawRow px py b).1.cell c.val r.val ≠ fb.cell c.val r.val ↔ RowOn px py b c r := by
  rw [(fb.drawRow_spec px py b).1, xor_decide_ne_iff, Nat.mod_eq_of_lt c.isLt, Nat.mod_eq_of_lt r.isLt]
  rfl

theorem drawRow_collides_iff (fb : FrameBuffer) (px py : Nat) (b : Byte) :
    (fb.drawRow px py b).2 = true ↔ ∃ c r, RowOn px py b c r ∧ fb.cell c.val r.val = true := by
  rw [(fb.drawRow_spec px py b).2]
  constructor
  · rintro ⟨k, hk, hone, hbit⟩
    exact ⟨⟨(px + k) % 64, Nat.mod_lt _ (by decide)⟩, ⟨py % 32, Nat.mod_lt _ (by decide)⟩, ⟨rfl, k, hk, rfl, hbit⟩,
      (cell_mod fb _ _).trans hone⟩
  · rintro ⟨c, r, ⟨hr, k, hk, hc, hbit⟩, hone⟩
    rw [hc, hr, cell_mod] at hone
    exact ⟨k, hk, hone, hbit⟩

/-- Settles O40: a row collides where a 1 bit lands on a 1 cell, which is a cell flipped from 1 to 0. -/
theorem drawRowXorsAndCollides : Obligations.DrawRowXorsAndCollides := fun fb px py b =>
  have hflip := drawRow_flips_iff fb px py b
  ⟨hflip, (drawRow_collides_iff fb px py b).trans (exists_lost_iff hflip).symm⟩

/-! ### A sprite (R184) -/

theorem length_readBytes (s : State) (n a k : Nat) : (s.readBytes n a k).length = k := Memory.length_readBlock ..

/-- A sprite has at most 15 rows, so that no two of them meet on the screen's 32. -/
theorem length_sprite_le (s : State) (n : Nibble) : (s.readBytes 1 s.i.toNat n.toNat).length ≤ 15 := by
  rw [length_readBytes]
  omega

/-- Row `j` of a sprite is the byte at I + j. -/
theorem getElem_readBytes_one (s : State) {a k j : Nat} (h : j < (s.readBytes 1 a k).length) :
    (s.readBytes 1 a k)[j] = s.readByte (a + j) :=
  (Memory.getElem_readBlock s.mem 1 a k j h).trans (congrArg (fun m => s.readByte (a + m)) (Nat.one_mul j))

theorem drawn_flips_iff (s : State) (x y : Reg) (n : Nibble) (c : Fin 64) (r : Fin 32) :
    (s.drawn x y n.toNat).1.cell c.val r.val ≠ s.cell c.val r.val ↔ SpriteOn s x y n.toNat c r := by
  rw [State.drawn, State.cell, (FrameBuffer.drawRows_spec _ _ _ (length_sprite_le s n) s.fb false).1, xor_decide_ne_iff,
    Nat.mod_eq_of_lt c.isLt, Nat.mod_eq_of_lt r.isLt]
  simp only [getElem_readBytes_one, exists_prop, length_readBytes]
  rfl

theorem drawn_collides_iff (s : State) (x y : Reg) (n : Nibble) :
    (s.drawn x y n.toNat).2 = true ↔ ∃ c r, SpriteOn s x y n.toNat c r ∧ s.cell c.val r.val = true := by
  rw [State.drawn, (FrameBuffer.drawRows_spec _ _ _ (length_sprite_le s n) s.fb false).2]
  simp only [getElem_readBytes_one, exists_prop, length_readBytes, Bool.false_eq_true, false_or]
  constructor
  · rintro ⟨j, k, hj, hk, hone, hbit⟩
    exact ⟨⟨((s.getV x).toNat + k) % 64, Nat.mod_lt _ (by decide)⟩,
      ⟨((s.getV y).toNat + j) % 32, Nat.mod_lt _ (by decide)⟩, ⟨j, k, hj, hk, rfl, rfl, hbit⟩,
      (cell_mod s.fb _ _).trans hone⟩
  · rintro ⟨c, r, ⟨j, k, hj, hk, hc, hr, hbit⟩, hone⟩
    rw [hc, hr, State.cell, cell_mod] at hone
    exact ⟨j, k, hj, hk, hone, hbit⟩

/-! ### The instructions -/

theorem flagByte_eq_zero_or_one (b : Bool) : flagByte b = 0#8 ∨ flagByte b = 1#8 := by
  cases b
  · exact .inl rfl
  · exact .inr rfl

theorem flagByte_eq_one_iff (b : Bool) : flagByte b = 1#8 ↔ b = true := by cases b <;> decide

/-- Settles O41: a sprite whose rows fit is drawn, and its collision flag is the last write; otherwise the fault entry is
taken before the draw. -/
theorem drwFlipsTheSpriteCells : Obligations.DrwFlipsTheSpriteCells := by
  intro x y n s
  refine ⟨toNat_packXyn (by decide) x y n, fun hfit => ?_, fun hpos hout =>
    ⟨_, if_pos ((rangeOut_iff s n.toNat).mpr ⟨hpos, hout⟩), faultTaken_raise _ _ s⟩⟩
  have hin : ¬ s.rangeOut n.toNat = true := by
    rw [rangeOut_iff]
    omega
  have hflip := drawn_flips_iff s x y n
  have hcollide := (drawn_collides_iff s x y n).trans (exists_lost_iff hflip).symm
  refine ⟨_, if_neg hin, hflip, ?_, ?_, (ChangesOnly.refl.setFb fun c r => .inr ⟨c, r, rfl⟩).setV (.inl rfl)⟩
  · rw [getV_setV_self]
    exact flagByte_eq_zero_or_one _
  · rw [getV_setV_self, flagByte_eq_one_iff]
    exact hcollide

/-- Settles O39: the cleared frame buffer is the one thing CLS writes. -/
theorem clsClearsEveryCell : Obligations.ClsClearsEveryCell :=
  ⟨rfl, fun _ => ⟨_, rfl, fun c r => FrameBuffer.cell_clear c.val r.val,
    ChangesOnly.refl.setFb fun c r => ⟨c, r, rfl⟩⟩⟩

end Sys2Proof
end

section
/-! # What an instruction does: the fault entry, or a chain of updates (40_cycle_and_decode.md R103, 60_exceptions.md
R230, R232) -/

namespace Sys2Proof

open Sys2Proof.Machine Sys2Proof.Safety

/-! ### Keys (45_timers_input.md R207, R208) -/

theorem lowestKey_or_noKey (s : State) : (∃ k, LowestKey s.key k) ∨ NoKey s.key := by
  cases hk : s.lowestPressed with
  | some k => exact .inl ⟨k, s.lowestPressed_some k hk⟩
  | none => exact .inr (s.lowestPressed_none hk)

theorem awaitKey_of_lowestKey {s : State} {k : Reg} (h : LowestKey s.key k) (x : Reg) :
    s.awaitKey x = s.setV x (byteOfReg k) := by
  simp only [State.awaitKey, State.lowestPressed_of h]

theorem awaitKey_of_noKey {s : State} (h : NoKey s.key) (x : Reg) : s.awaitKey x = s.startWait x := by
  simp only [State.awaitKey, State.lowestPressed_of_noKey h]

theorem keyIndex_of_toNat_eq {b : Byte} {k : Reg} (h : b.toNat = k.val) : keyIndex b = some k :=
  (dif_pos (h ▸ k.isLt)).trans (congrArg some (Fin.ext h))

theorem keyIndex_of_gt {b : Byte} (h : 0xF < b.toNat) : keyIndex b = none := dif_neg (by omega)

theorem toNat_eq_of_keyIndex {b : Byte} {k : Reg} (h : keyIndex b = some k) : b.toNat = k.val := by
  by_cases hlt : b.toNat < 16
  · obtain rfl : ⟨b.toNat, hlt⟩ = k := Option.some.inj ((dif_pos hlt).symm.trans h)
    rfl
  · rw [keyIndex_of_gt (by omega)] at h
    cases h

/-! ### Fault conditions -/

theorem not_faults_of_case_none {i : Instr} {s : State} (hcase : faultCase i s = none) (code : FaultCode) :
    ¬ Faults i s code := by
  rintro ⟨cond, hsome, -⟩
  rw [hcase] at hsome
  cases hsome

theorem not_faults_of_case {i : Instr} {s : State} {c : FaultCode} {cond : Prop}
    (hcase : faultCase i s = some (c, cond)) (hcond : ¬ cond) (code : FaultCode) : ¬ Faults i s code := by
  rintro ⟨cond', hsome, hcond'⟩
  rw [hcase] at hsome
  cases hsome
  exact hcond hcond'

theorem code_ne_none_of_faults {i : Instr} {s : State} {code : FaultCode} (h : Faults i s code) : code ≠ .none := by
  rintro rfl
  obtain ⟨cond, hcase, -⟩ := h
  cases i <;> cases hcase

/-- A fault condition reads registers, I, SP and the configuration, which neither the phases nor the fetch change. -/
theorem faults_afterFetch_iff (keys : BitVec 16) (rand : Byte) (i : Instr) (s : State) (code : FaultCode) :
    Faults i (afterFetch keys rand s) code ↔ Faults i s code := by
  cases i <;> exact .rfl

/-! ### The updates an instruction is made of -/

/-- The states the instruction `i`, executed on `s`, passes through where it meets no fault: each update, with what a
later proof has to know of the instruction that makes it. -/
inductive Updated (i : Instr) (s : State) : State → Prop
  | refl : Updated i s s
  | setV {t : State} {x : Reg} {b : Byte} : Updated i s t → Updated i s (t.setV x b)
  | setVs {t : State} {bs : List Byte} : Updated i s t → Updated i s (t.setVs bs)
  | setI {t : State} {a : Word} : Updated i s t → Updated i s (t.setI a)
  | setFb {t : State} {fb : FrameBuffer} : Updated i s t → Updated i s (t.setFb fb)
  /-- a jump's target is at most 0xFFF + 0xFF (41_control_flow.md R127) -/
  | setPc {t : State} {a : Word} : Updated i s t → a.toNat ≤ 0x10FE → Updated i s (t.setPc a)
  | advance : Updated i s s.advance
  | push : Updated i s (s.push s.pc)
  | popPc : Updated i s s.popPc
  | writeBytes {t : State} {n a : Nat} {bs : List Byte} :
      Updated i s t → (∀ k, k < bs.length → a + n * k ≤ topAddr) → Updated i s (t.writeBytes n a bs)
  | setDt {x : Reg} : i = .ldDtVx x → Updated i s (s.setDt (s.getV x))
  | setSt {x : Reg} : i = .ldStVx x → Updated i s (s.setSt (s.getV x))
  | startWait {x : Reg} : i = .ldVxK x → NoKey s.key → Updated i s (s.startWait x)

namespace Updated

variable {i : Instr} {s t : State}

theorem skipIf (c : Bool) : Updated i s (s.skipIf c) := by
  cases c with
  | true => exact .advance
  | false => exact .refl

theorem writeFlagged (h : Updated i s t) (x : Reg) (f : Bool) (b : Byte) : Updated i s (t.writeFlagged x f b) :=
  h.setV.setV

theorem bumpI (h : Updated i s t) (n : Nibble) : Updated i s (t.bumpI n) := by
  unfold State.bumpI
  split
  · exact h.setI
  · exact h

theorem awaitKey (x : Reg) (s : State) : Updated (.ldVxK x) s (s.awaitKey x) := by
  obtain ⟨k, hk⟩ | hno := lowestKey_or_noKey s
  · exact awaitKey_of_lowestKey hk x ▸ .setV .refl
  · exact awaitKey_of_noKey hno x ▸ .startWait rfl hno

/-! What the updates leave, and which instruction may change the rest. -/

theorem key (h : Updated i s t) : t.key = s.key := by
  induction h with
  | refl | advance | push | popPc | setDt | setSt | startWait => rfl
  | setV _ ih | setVs _ ih | setI _ ih | setFb _ ih | setPc _ _ ih | writeBytes _ _ ih => exact ih

theorem faulted (h : Updated i s t) : t.faulted = s.faulted := by
  induction h with
  | refl | advance | push | popPc | setDt | setSt | startWait => rfl
  | setV _ ih | setVs _ ih | setI _ ih | setFb _ ih | setPc _ _ ih | writeBytes _ _ ih => exact ih

theorem dt (h : Updated i s t) : t.dt = s.dt ∨ ∃ x, i = .ldDtVx x ∧ t.dt = s.getV x := by
  induction h with
  | refl | advance | push | popPc | setSt | startWait => exact .inl rfl
  | setV _ ih | setVs _ ih | setI _ ih | setFb _ ih | setPc _ _ ih | writeBytes _ _ ih => exact ih
  | @setDt x hi => exact .inr ⟨x, hi, rfl⟩

theorem st (h : Updated i s t) : t.st = s.st ∨ ∃ x, i = .ldStVx x ∧ t.st = s.getV x := by
  induction h with
  | refl | advance | push | popPc | setDt | startWait => exact .inl rfl
  | setV _ ih | setVs _ ih | setI _ ih | setFb _ ih | setPc _ _ ih | writeBytes _ _ ih => exact ih
  | @setSt x hi => exact .inr ⟨x, hi, rfl⟩

theorem waiting (h : Updated i s t) : t.waiting = s.waiting ∨ NoKey s.key ∧ ∃ x, i = .ldVxK x := by
  induction h with
  | refl | advance | push | popPc | setDt | setSt => exact .inl rfl
  | setV _ ih | setVs _ ih | setI _ ih | setFb _ ih | setPc _ _ ih | writeBytes _ _ ih => exact ih
  | @startWait x hi hno => exact .inr ⟨hno, x, hi⟩

end Updated

/-! ### Every instruction -/

/-- The instruction takes its fault entry, or meets no fault and completes by updates. -/
def FaultsOrCompletes (i : Instr) (s : State) : Prop :=
  (∃ code, Faults i s code ∧ exec i s = .next (s.raise code i)) ∨
    ((∀ code, ¬ Faults i s code) ∧ ∃ t, exec i s = .next t ∧ Updated i s t)

theorem completes_of_case_none {i : Instr} {s t : State} (hcase : faultCase i s = none) (hexec : exec i s = .next t)
    (ht : Updated i s t) : FaultsOrCompletes i s :=
  .inr ⟨not_faults_of_case_none hcase, t, hexec, ht⟩

/-- An instruction that faults where `c` holds and else answers `t`. -/
theorem faultsOrCompletes_of_checked {i : Instr} {s t : State} {code : FaultCode} {c cond : Prop} [Decidable c]
    (hcase : faultCase i s = some (code, cond)) (hcond : c ↔ cond)
    (hexec : exec i s = if c then .next (s.raise code i) else .next t) (ht : ¬ c → Updated i s t) :
    FaultsOrCompletes i s := by
  by_cases hc : c
  · exact .inl ⟨code, ⟨cond, hcase, hcond.mp hc⟩, hexec.trans (if_pos hc)⟩
  · exact .inr ⟨not_faults_of_case hcase (mt hcond.mpr hc), t, hexec.trans (if_neg hc), ht hc⟩

theorem faultsOrCompletes_of_keySkip {i : Instr} {s : State} {x : Reg} {c : Reg → Bool}
    (hcase : faultCase i s = some (.keyRange, (s.getV x).toNat > 0xF))
    (hexec : exec i s = match keyIndex (s.getV x) with
      | none => .next (s.raise .keyRange i)
      | some k => .next (s.skipIf (c k))) : FaultsOrCompletes i s := by
  cases hk : keyIndex (s.getV x) with
  | none => exact .inl ⟨.keyRange, ⟨_, hcase, keyIndex_none hk⟩, by rw [hexec, hk]⟩
  | some k =>
    have hle : ¬ (s.getV x).toNat > 0xF := by
      rw [toNat_eq_of_keyIndex hk]
      omega
    exact .inr ⟨not_faults_of_case hcase hle, _, by rw [hexec, hk], .skipIf (c k)⟩

theorem toNat_zext16_le (nnn : Addr12) : (zext16 nnn).toNat ≤ 0x10FE := by
  rw [toNat_zext16]
  omega

theorem toNat_zext16_add_zextByte_le (nnn : Addr12) (b : Byte) : (zext16 nnn + zextByte b).toNat ≤ 0x10FE := by
  rw [toNat_zext16_add_zextByte]
  omega

theorem exec_faultsOrCompletes (i : Instr) (s : State) : FaultsOrCompletes i s := by
  cases i
  case nop => exact completes_of_case_none rfl rfl .refl
  case cls => exact completes_of_case_none rfl rfl (.setFb .refl)
  case ret => exact faultsOrCompletes_of_checked rfl .rfl rfl fun _ => .popPc
  case jp nnn => exact completes_of_case_none rfl rfl (.setPc .refl (toNat_zext16_le nnn))
  case jpV0 nnn => exact completes_of_case_none rfl rfl (.setPc .refl (toNat_zext16_add_zextByte_le nnn _))
  case call nnn => exact faultsOrCompletes_of_checked rfl .rfl rfl fun _ => .setPc .push (toNat_zext16_le nnn)
  case seImm | sneImm | seReg | sneReg => exact completes_of_case_none rfl rfl (.skipIf _)
  case skp | sknp => exact faultsOrCompletes_of_keySkip rfl rfl
  case ldImm | addImm | ldReg | orReg | andReg | xorReg | rnd | ldVxDt =>
    exact completes_of_case_none rfl rfl (.setV .refl)
  case addReg | subReg | subn | shr | shl => exact completes_of_case_none rfl rfl (.writeFlagged .refl _ _ _)
  case ldI | ldF => exact completes_of_case_none rfl rfl (.setI .refl)
  case addI => exact completes_of_case_none rfl rfl (.setV (.setI .refl))
  case ldDtVx => exact completes_of_case_none rfl rfl (.setDt rfl)
  case ldStVx => exact completes_of_case_none rfl rfl (.setSt rfl)
  case ldVxK x => exact completes_of_case_none rfl rfl (.awaitKey x s)
  case drw x y n => exact faultsOrCompletes_of_checked rfl (rangeOut_iff s n.toNat) rfl fun _ => .setV (.setFb .refl)
  case ldB x =>
    have hcond : s.rangeOut 3 = true ↔ s.i.toNat + 2 > 0xFFF := by
      rw [rangeOut_iff]
      omega
    refine faultsOrCompletes_of_checked rfl hcond rfl fun hin => .writeBytes .refl fun k (hk : k < 3) => ?_
    rw [hcond] at hin
    unfold topAddr
    omega
  case ldMemVx n =>
    have hlen : (s.firstVs n.toNat).length = n.toNat := (s.firstVs_spec n.toNat (by omega)).1
    refine faultsOrCompletes_of_checked rfl (blockOut_iff s n.toNat) rfl fun hin => .bumpI (.writeBytes .refl ?_) n
    exact fun k hk => blockAddr_le_topAddr hin (hlen ▸ hk)
  case ldVxMem n =>
    exact faultsOrCompletes_of_checked rfl (blockOut_iff s n.toNat) rfl fun _ => .bumpI (.setVs .refl) n

end Sys2Proof
end

section
/-! # What a cycle does (40_cycle_and_decode.md R100 to R106) -/

namespace Sys2Proof

open Sys2Proof.Machine Sys2Proof.Safety

/-- The states a cycle from `s` may answer, by what it meets. -/
inductive CycleOutcome (keys : BitVec 16) (rand : Byte) (s : State) : State → Prop
  | frozenTick : Frozen s → CycleOutcome keys rand s s.frozenTick
  | wake : Waiting s → CycleOutcome keys rand s (afterPhases keys rand s).wake
  | fetchFault : Running s → 0xFFE < s.pc.toNat → CycleOutcome keys rand s (afterPhases keys rand s).fetchFault
  | unknown : Running s → s.pc.toNat ≤ 0xFFE → decode (wordAtPc s) = .unknown (wordAtPc s) →
      CycleOutcome keys rand s ((afterFetch keys rand s).setDiag (some ⟨wordAtPc s, s.pc⟩))
  | raise {i : Instr} {code : FaultCode} : Running s → s.pc.toNat ≤ 0xFFE → decode (wordAtPc s) = .instr i →
      Faults i s code → CycleOutcome keys rand s ((afterFetch keys rand s).raise code i)
  | complete {i : Instr} {t : State} : Running s → s.pc.toNat ≤ 0xFFE → decode (wordAtPc s) = .instr i →
      (∀ code, ¬ Faults i s code) → Updated i (afterFetch keys rand s) t → CycleOutcome keys rand s t

theorem cycle_outcome (keys : BitVec 16) (rand : Byte) (s : State) :
    ∃ t, cycle keys rand s = .next t ∧ CycleOutcome keys rand s t := by
  obtain hf | hw | ⟨hrun, hpc⟩ | ⟨hrun, hpc⟩ := cycle_cases s
  · exact ⟨_, cycle_frozen keys rand hf, .frozenTick hf⟩
  · exact ⟨_, cycle_waiting keys rand hw, .wake hw⟩
  · exact ⟨_, cycle_of_fetch_beyond_memory keys rand hrun hpc, .fetchFault hrun hpc⟩
  rw [cycle_of_fetch keys rand hrun hpc]
  cases hdec : decode (wordAtPc s) with
  | unknown w =>
    obtain rfl := eq_of_decode_eq_unknown hdec
    exact ⟨_, perform_unknown hdec _ _, .unknown hrun hpc hdec⟩
  | instr i =>
    rw [perform_instr hdec]
    obtain ⟨code, hfault, ht⟩ | ⟨hno, t, ht, hupd⟩ := exec_faultsOrCompletes i (afterFetch keys rand s)
    · exact ⟨_, ht, .raise hrun hpc hdec ((faults_afterFetch_iff keys rand i s code).mp hfault)⟩
    · have hno' : ∀ code, ¬ Faults i s code := fun code => mt (faults_afterFetch_iff keys rand i s code).mpr (hno code)
      exact ⟨t, ht, .complete hrun hpc hdec hno' hupd⟩

end Sys2Proof
end

section
/-! # The invariant (60_exceptions.md R231, R232; 10_state.md R24, R40) -/

namespace Sys2Proof

open Sys2Proof.Machine Sys2Proof.Safety

/-! ### One rule per update -/

namespace Safety.Inv

variable {s : State} (h : Inv s)
include h

theorem setV (x : Reg) (b : Byte) : Inv (s.setV x b) := { h with }
theorem setVs (bs : List Byte) : Inv (s.setVs bs) := { h with }
theorem setI (a : Word) : Inv (s.setI a) := { h with }
theorem setFb (fb : FrameBuffer) : Inv (s.setFb fb) := { h with }
theorem setDt (b : Byte) : Inv (s.setDt b) := { h with }
theorem setSt (b : Byte) : Inv (s.setSt b) := { h with }
theorem takeInput : Inv s.takeInput := { h with }
theorem endWait : Inv s.endWait := { h with oneState := nofun }

theorem frozenTick : Inv s.frozenTick :=
  { h with frozenPc := fun hf => ⟨(h.frozenPc hf).1, rfl⟩ }

theorem afterPhases (keys : BitVec 16) (rand : Byte) : Inv (afterPhases keys rand s) :=
  { h with frozenPc := fun hf => ⟨(h.frozenPc hf).1, rfl⟩ }

theorem writeBytes {n a : Nat} {bs : List Byte} (hin : ∀ k, k < bs.length → a + n * k ≤ topAddr) :
    Inv (s.writeBytes n a bs) :=
  { h with memOk := s.wf_writeBytes bs h.memOk hin }

theorem wake : Inv s.wake := by
  unfold State.wake
  split
  · exact (h.setV _ _).endWait
  · exact h

theorem enterFault {code : FaultCode} {pc0 : Word} (w : Word) (hcode : code ≠ .none) (hw : s.waiting = false)
    (hd : s.diag = none) (hpc : pc0.toNat ≤ 0x10FE) : Inv (s.enterFault code pc0 w) :=
  { h with
    oneState := fun hwait => absurd (hw.symm.trans hwait) Bool.false_ne_true
    codeIff := iff_of_false hcode nofun
    recordClear := nofun
    frozenPc := fun _ => ⟨rfl, hd⟩
    pcBound := hpc }

theorem top_le : s.top.toNat ≤ 0x1000 := h.slotBound ⟨s.sp.toNat, s.sp.isLt⟩

theorem push {a : Word} (ha : a.toNat ≤ 0x1000) : Inv (s.push a) where
  __ := h
  slotBound j := by
    by_cases hj : j.val = (s.sp + 1#4).toNat
    · rw [← top_eq_slot (s := s.push a) hj.symm, s.top_push a]
      exact ha
    · rw [s.push_slot a j hj]
      exact h.slotBound j

section
variable (hf : s.faulted = false)
include hf

theorem setPc {a : Word} (ha : a.toNat ≤ 0x10FE) : Inv (s.setPc a) :=
  { h with
    frozenPc := fun htrue => absurd (hf.symm.trans htrue) Bool.false_ne_true
    pcBound := ha }

theorem popPc : Inv s.popPc :=
  { h.setPc hf (a := s.top) (h.top_le.trans (by decide)) with }

theorem setDiag (d : Option Diag) : Inv (s.setDiag d) :=
  { h with frozenPc := fun htrue => absurd (hf.symm.trans htrue) Bool.false_ne_true }

theorem startWait (x : Reg) : Inv (s.startWait x) := { h with oneState := fun _ => hf }

end

end Safety.Inv

/-! ### An instruction on the state after its fetch -/

/-- What the phases and the fetch increment leave to the instruction: the invariant, a running machine with no
diagnostic event, and PC 2 above the address of a word inside the memory. -/
structure Executing (s : State) : Prop where
  inv : Inv s
  running : Running s
  noDiag : s.diag = none
  pcBounds : 2 ≤ s.pc.toNat ∧ s.pc.toNat ≤ 0x1000

theorem executing_afterFetch {s : State} (keys : BitVec 16) (rand : Byte) (h : Inv s) (hrun : Running s)
    (hpc : s.pc.toNat ≤ 0xFFE) : Executing (afterFetch keys rand s) := by
  have hnext : (s.pc + 2#16).toNat = s.pc.toNat + 2 := by bv_omega
  exact
    { inv := (h.afterPhases keys rand).setPc hrun.2 (by omega)
      running := hrun
      noDiag := rfl
      pcBounds := (by omega : 2 ≤ (s.pc + 2#16).toNat ∧ (s.pc + 2#16).toNat ≤ 0x1000) }

namespace Executing

variable {s : State} (h : Executing s)
include h

theorem inv_raise {code : FaultCode} (i : Instr) (hcode : code ≠ .none) : Inv (s.raise code i) := by
  obtain ⟨hlo, hhi⟩ := h.pcBounds
  exact h.inv.enterFault _ hcode h.running.1 h.noDiag (by bv_omega)

theorem inv_advance : Inv s.advance := by
  obtain ⟨-, hhi⟩ := h.pcBounds
  exact h.inv.setPc h.running.2 (by bv_omega)

theorem inv_of_updated {i : Instr} {t : State} (ht : Updated i s t) : Inv t := by
  induction ht with
  | refl => exact h.inv
  | setV _ ih => exact ih.setV _ _
  | setVs _ ih => exact ih.setVs _
  | setI _ ih => exact ih.setI _
  | setFb _ ih => exact ih.setFb _
  | setPc hupd ha ih => exact ih.setPc (hupd.faulted.trans h.running.2) ha
  | advance => exact h.inv_advance
  | push => exact h.inv.push h.pcBounds.2
  | popPc => exact h.inv.popPc h.running.2
  | writeBytes _ hin ih => exact ih.writeBytes hin
  | setDt => exact h.inv.setDt _
  | setSt => exact h.inv.setSt _
  | startWait => exact h.inv.startWait h.running.2 _

end Executing

/-! ### Every cycle and every step -/

theorem CycleOutcome.inv {keys : BitVec 16} {rand : Byte} {s t : State} (h : CycleOutcome keys rand s t)
    (hs : Inv s) : Inv t := by
  have hphases : Inv (afterPhases keys rand s) := hs.afterPhases keys rand
  cases h with
  | frozenTick => exact hs.frozenTick
  | wake => exact hphases.wake
  | fetchFault hrun => exact hphases.enterFault _ nofun hrun.1 rfl hs.pcBound
  | unknown hrun hpc => exact (executing_afterFetch keys rand hs hrun hpc).inv.setDiag hrun.2 _
  | raise hrun hpc _ hfault =>
    exact (executing_afterFetch keys rand hs hrun hpc).inv_raise _ (code_ne_none_of_faults hfault)
  | complete hrun hpc _ _ hupd => exact (executing_afterFetch keys rand hs hrun hpc).inv_of_updated hupd

/-- Settles O60: a frozen tick only ends the event; any other step is a cycle, and each of its outcomes is reached by
updates that keep the invariant, from a fetch at 0xFFE or below. -/
theorem everyStepKeepsTheInvariant : Obligations.EveryStepKeepsTheInvariant := by
  intro s t hs ht
  cases hf : s.faulted with
  | true =>
    obtain rfl := Host.Outcome.next.inj ((step_frozen hf).symm.trans ht)
    exact hs.frozenTick
  | false =>
    obtain ⟨u, hu, hout⟩ := cycle_outcome s.nextInput.keys s.nextInput.rand s.takeInput
    obtain rfl := Host.Outcome.next.inj (hu.symm.trans ((step_cycle hf).symm.trans ht))
    exact hout.inv hs.takeInput

end Sys2Proof
end

section
/-! # Timers, latch and key skips (45_timers_input.md R200 to R207) -/

namespace Sys2Proof

open Sys2Proof.Machine Sys2Proof.Safety

/-- A word of group 0xE with its low byte (R71). -/
theorem toNat_packXnn_groupE (x : Reg) (nn : Byte) : (packXnn 0xE x nn).toNat = 0xE000 + nn.toNat + x.val * 256 := by
  rw [toNat_packXnn (by decide)]
  omega

/-- Settles O42: each of the three is one write. -/
theorem timerMoves : Obligations.TimerMoves := fun x _ =>
  ⟨toNat_packXnn_groupF x 0x07#8, toNat_packXnn_groupF x 0x15#8, toNat_packXnn_groupF x 0x18#8, exec_of_setV rfl,
    ⟨_, rfl, rfl, ChangesOnly.refl.setDt rfl⟩, ⟨_, rfl, rfl, rfl, ChangesOnly.refl.setSt rfl⟩⟩

/-! ### The wake-up phase (R210) -/

theorem wake_of_lowestKey {s : State} {k : Reg} (h : LowestKey s.key k) :
    s.wake = (s.setV s.waitX (byteOfReg k)).endWait := by
  simp only [State.wake, State.lowestPressed_of h]

theorem wake_of_noKey {s : State} (h : NoKey s.key) : s.wake = s := by
  simp only [State.wake, State.lowestPressed_of_noKey h]

theorem Safety.ChangesOnly.endWait {T : Part → Prop} {s t : State} (h : ChangesOnly T s t) (hw : T .waiting) :
    ChangesOnly T s t.endWait := by
  intro p hp
  have ht := h p hp
  cases p with
  | waiting => exact absurd hw hp
  | _ => exact ht

theorem wake_timers_key (s : State) : s.wake.dt = s.dt ∧ s.wake.st = s.st ∧ s.wake.key = s.key := by
  obtain ⟨k, hk⟩ | hno := lowestKey_or_noKey s
  · rw [wake_of_lowestKey hk]
    exact ⟨rfl, rfl, rfl⟩
  · rw [wake_of_noKey hno]
    exact ⟨rfl, rfl, rfl⟩

/-! ### After a cycle of a machine that is not frozen -/

/-- A timer's count after the timer phase fits its byte. -/
theorem toNat_timer_pred (b : Byte) : (BitVec.ofNat 8 (b.toNat - 1)).toNat = b.toNat - 1 :=
  Nat.mod_eq_of_lt (by omega)

/-- An executed instruction's answer is the cycle's. -/
theorem exec_of_cycle {keys : BitVec 16} {rand : Byte} {s t u : State} {i : Instr} (hrun : Running s)
    (hpc : s.pc.toNat ≤ 0xFFE) (hdec : decode (wordAtPc s) = .instr i) (ht : cycle keys rand s = .next t)
    (hu : exec i (afterFetch keys rand s) = .next u) : t = u :=
  Host.Outcome.next.inj (ht.symm.trans ((cycleExecutesTheInstructionAtPc keys rand s i hrun hpc hdec).trans hu))

section
variable {keys : BitVec 16} {rand : Byte} {s t : State} (h : CycleOutcome keys rand s t) (hf : s.faulted = false)
include h hf

/-- The timers and the latch are as the phases left them, unless an instruction completed. -/
theorem CycleOutcome.phases_or_updated :
    (t.dt.toNat = s.dt.toNat - 1 ∧ t.st.toNat = s.st.toNat - 1 ∧ t.key = keys) ∨
      ∃ i, Running s ∧ s.pc.toNat ≤ 0xFFE ∧ decode (wordAtPc s) = .instr i ∧ Updated i (afterFetch keys rand s) t := by
  cases h with
  | frozenTick hfrozen => exact absurd (hf.symm.trans hfrozen) Bool.false_ne_true
  | wake =>
    obtain ⟨hdt, hst, hkey⟩ := wake_timers_key (afterPhases keys rand s)
    exact .inl ⟨hdt ▸ toNat_timer_pred s.dt, hst ▸ toNat_timer_pred s.st, hkey⟩
  | fetchFault | unknown | raise => exact .inl ⟨toNat_timer_pred s.dt, toNat_timer_pred s.st, rfl⟩
  | complete hrun hpc hdec _ hupd => exact .inr ⟨_, hrun, hpc, hdec, hupd⟩

theorem CycleOutcome.dt : t.dt.toNat = s.dt.toNat - 1 ∨
    Running s ∧ s.pc.toNat ≤ 0xFFE ∧ ∃ x, decode (wordAtPc s) = .instr (.ldDtVx x) ∧ t.dt = s.getV x := by
  obtain ⟨hdt, -, -⟩ | ⟨i, hrun, hpc, hdec, hupd⟩ := h.phases_or_updated hf
  · exact .inl hdt
  obtain hkeep | ⟨x, rfl, hset⟩ := hupd.dt
  · exact .inl (hkeep ▸ toNat_timer_pred s.dt)
  · exact .inr ⟨hrun, hpc, x, hdec, hset⟩

theorem CycleOutcome.st : t.st.toNat = s.st.toNat - 1 ∨
    Running s ∧ s.pc.toNat ≤ 0xFFE ∧ ∃ x, decode (wordAtPc s) = .instr (.ldStVx x) ∧ t.st = s.getV x := by
  obtain ⟨-, hst, -⟩ | ⟨i, hrun, hpc, hdec, hupd⟩ := h.phases_or_updated hf
  · exact .inl hst
  obtain hkeep | ⟨x, rfl, hset⟩ := hupd.st
  · exact .inl (hkeep ▸ toNat_timer_pred s.st)
  · exact .inr ⟨hrun, hpc, x, hdec, hset⟩

theorem CycleOutcome.key : t.key = keys := by
  obtain ⟨-, -, hkey⟩ | ⟨i, -, -, -, hupd⟩ := h.phases_or_updated hf
  · exact hkey
  · exact hupd.key

end

/-- Settles O18: every outcome of the cycle keeps the counts of the timer phase, but for the register an Fx15 or Fx18
writes over one; and an Fx07 executes on the state that holds them. -/
theorem timersCountDownEveryTick : Obligations.TimersCountDownEveryTick := by
  intro keys rand s hf
  obtain ⟨t, ht, hout⟩ := cycle_outcome keys rand s
  refine ⟨t, ht, hout.dt hf, hout.st hf, fun hrun hpc x hdec => ?_⟩
  obtain rfl := exec_of_cycle hrun hpc hdec ht rfl
  rw [getV_setV_self]
  exact toNat_timer_pred s.dt

/-! ### The key skips (R205 to R207) -/

theorem exec_skp_of_key {s : State} {x k : Reg} (h : (s.getV x).toNat = k.val) :
    exec (.skp x) s = .next (s.skipIf (s.pressed k)) := by
  simp only [exec, execSkp, keyIndex_of_toNat_eq h]

theorem exec_sknp_of_key {s : State} {x k : Reg} (h : (s.getV x).toNat = k.val) :
    exec (.sknp x) s = .next (s.skipIf (!s.pressed k)) := by
  simp only [exec, execSknp, keyIndex_of_toNat_eq h]

theorem exec_skp_of_gt {s : State} {x : Reg} (h : 0xF < (s.getV x).toNat) :
    exec (.skp x) s = .next (s.raise .keyRange (.skp x)) := by
  simp only [exec, execSkp, keyIndex_of_gt h]

theorem exec_sknp_of_gt {s : State} {x : Reg} (h : 0xF < (s.getV x).toNat) :
    exec (.sknp x) s = .next (s.raise .keyRange (.sknp x)) := by
  simp only [exec, execSknp, keyIndex_of_gt h]

/-- Settles O43: a register's value that is a key's number selects the skip on that key's bit of the latch, and any
other value the fault entry. -/
theorem keySkips : Obligations.KeySkips := by
  refine fun x s => ⟨toNat_packXnn_groupE x 0x9E#8, toNat_packXnn_groupE x 0xA1#8, fun k hk => ⟨?_, ?_⟩, fun hgt =>
    ⟨⟨_, exec_skp_of_gt hgt, faultTaken_raise _ _ s⟩, ⟨_, exec_sknp_of_gt hgt, faultTaken_raise _ _ s⟩⟩⟩
  · exact exec_of_skipIf (by rw [exec_skp_of_key hk, Bool.decide_eq_true])
  · exact exec_of_skipIf_not (by rw [exec_sknp_of_key hk, decide_not, Bool.decide_eq_true])

theorem pc_skipIf (s : State) (c : Bool) : (s.skipIf c).pc = if c = true then s.pc + 2#16 else s.pc := by
  cases c <;> rfl

/-- Settles O19: every outcome of the cycle keeps the latch of the refresh phase, and an Ex9E executes on the state that
holds it. -/
theorem latchIsTheSnapshotOfTheCycle : Obligations.LatchIsTheSnapshotOfTheCycle := by
  intro keys rand s hf
  obtain ⟨t, ht, hout⟩ := cycle_outcome keys rand s
  refine ⟨t, ht, fun k => congrArg (·.getLsbD k.val) (hout.key hf), fun hrun hpc x k hdec hk => ?_⟩
  obtain rfl := exec_of_cycle hrun hpc hdec ht (exec_skp_of_key (s := afterFetch keys rand s) hk)
  have hskip : s.pc + 2#16 + 2#16 = s.pc + 4#16 := BitVec.add_assoc s.pc 2#16 2#16
  exact (pc_skipIf _ _).trans (congrArg (if keys.getLsbD k.val = true then · else s.pc + 2#16) hskip)

end Sys2Proof
end

section
/-! # Key wait and halt control (45_timers_input.md R208 to R211) -/

namespace Sys2Proof

open Sys2Proof.Machine Sys2Proof.Safety

theorem toNat_byteOfReg (k : Reg) : (byteOfReg k).toNat = k.val := Nat.mod_eq_of_lt (by omega)

theorem exec_ldVxK_of_noKey {s : State} (h : NoKey s.key) (x : Reg) : exec (.ldVxK x) s = .next (s.startWait x) :=
  congrArg Host.Outcome.next (awaitKey_of_noKey h x)

/-- Settles O44: the key goes into V[x] and is the one write, or the wait begins and is the one update. -/
theorem keyWaitTakesTheLowestKeyOrWaits : Obligations.KeyWaitTakesTheLowestKeyOrWaits := by
  refine fun x s => ⟨toNat_packXnn_groupF x 0x0A#8, fun k hk => ?_, fun hno =>
    ⟨_, exec_ldVxK_of_noKey hno x, rfl, rfl, ChangesOnly.refl.startWait (.inl rfl) (.inr rfl)⟩⟩
  obtain ⟨t, ht, hx, hframe⟩ := exec_of_setV (i := .ldVxK x) (congrArg Host.Outcome.next (awaitKey_of_lowestKey hk x))
  exact ⟨t, ht, hx ▸ toNat_byteOfReg k, hframe⟩

/-! ### A cycle that began waiting -/

theorem cycle_of_waiting_lowestKey {keys : BitVec 16} {s : State} {k : Reg} (rand : Byte) (hw : Waiting s)
    (hk : LowestKey keys k) :
    cycle keys rand s = .next ((afterPhases keys rand s).setV s.waitX (byteOfReg k)).endWait :=
  (cycle_waiting keys rand hw).trans (congrArg Host.Outcome.next (wake_of_lowestKey hk))

theorem cycle_of_waiting_noKey {keys : BitVec 16} {s : State} (rand : Byte) (hw : Waiting s) (hno : NoKey keys) :
    cycle keys rand s = .next (afterPhases keys rand s) :=
  (cycle_waiting keys rand hw).trans (congrArg Host.Outcome.next (wake_of_noKey hno))

/-- Settles O45: after the phases the cycle writes the key and ends the wait, or does nothing more. -/
theorem wakeUpWritesTheKey : Obligations.WakeUpWritesTheKey := by
  refine fun keys rand s hw => ⟨fun k hk => ⟨_, cycle_of_waiting_lowestKey rand hw hk, ?_, rfl, ?_⟩, fun hno =>
    ⟨_, cycle_of_waiting_noKey rand hw hno, hw.1, ChangesOnly.refl.afterPhases keys rand fun _ => id⟩⟩
  · exact (congrArg BitVec.toNat (getV_setV_self _ _ _)).trans (toNat_byteOfReg k)
  · exact ((ChangesOnly.refl.afterPhases keys rand fun _ hp => .inr (.inr hp)).setV (.inl rfl)).endWait
      (.inr (.inl rfl))

/-! ### A cycle of a running machine -/

theorem not_cycleFaults {s : State} (hpc : s.pc.toNat ≤ 0xFFE)
    (h : ∀ i code, decode (wordAtPc s) = .instr i → ¬ Faults i s code) : ¬ CycleFaults s := by
  rintro ⟨-, hout | ⟨i, code, hdec, hfault⟩⟩
  · exact Nat.not_lt.mpr hpc hout
  · exact h i code hdec hfault

section
variable {keys : BitVec 16} {rand : Byte} {s t : State} (h : CycleOutcome keys rand s t) (hrun : Running s)
include h hrun

theorem CycleOutcome.frozen_iff : Frozen t ↔ CycleFaults s := by
  obtain ⟨hw, hf⟩ := hrun
  have hnot {u : State} (hu : u.faulted = s.faulted) : ¬ Frozen u := fun hfrozen =>
    Bool.false_ne_true (hf.symm.trans (hu.symm.trans hfrozen))
  cases h with
  | frozenTick hfrozen => exact absurd hfrozen (hnot rfl)
  | wake hwait => exact absurd (hw.symm.trans hwait.1) Bool.false_ne_true
  | fetchFault _ hpc => exact iff_of_true rfl ⟨hw, .inl hpc⟩
  | unknown _ hpc hdec =>
    exact iff_of_false (hnot rfl) (not_cycleFaults hpc fun i _ hi => absurd (hdec.symm.trans hi) nofun)
  | raise _ _ hdec hfault => exact iff_of_true rfl ⟨hw, .inr ⟨_, _, hdec, hfault⟩⟩
  | complete _ hpc hdec hno hupd =>
    refine iff_of_false (hnot hupd.faulted) (not_cycleFaults hpc fun i code hi => ?_)
    obtain rfl := Decoded.instr.inj (hdec.symm.trans hi)
    exact hno code

theorem CycleOutcome.ldVxK_of_waiting (ht : Waiting t) :
    s.pc.toNat ≤ 0xFFE ∧ NoKey keys ∧ ∃ x, decode (wordAtPc s) = .instr (.ldVxK x) := by
  have hnot {u : State} (hu : u.waiting = s.waiting) : ¬ Waiting u := fun hwait =>
    Bool.false_ne_true (hrun.1.symm.trans (hu.symm.trans hwait.1))
  cases h with
  | frozenTick | fetchFault | unknown | raise => exact absurd ht (hnot rfl)
  | wake hwait => exact absurd hwait (hnot rfl)
  | complete _ hpc hdec _ hupd =>
    obtain hkeep | ⟨hno, x, rfl⟩ := hupd.waiting
    · exact absurd ht (hnot hkeep)
    · exact ⟨hpc, hno, x, hdec⟩

end

/-- Settles O46: the outcomes of the cycle, read off for the state of the FSM it began in. -/
theorem haltControlFollowsItsTable : Obligations.HaltControlFollowsItsTable := by
  intro keys rand s
  obtain ⟨t, ht, hout⟩ := cycle_outcome keys rand s
  have hnext {u : State} (hu : cycle keys rand s = .next u) : t = u := Host.Outcome.next.inj (ht.symm.trans hu)
  refine ⟨t, ht, fun hf => ?_, fun hw hno => ?_, fun hw hkey => ?_, hout.frozen_iff, fun hrun =>
    ⟨hout.ldVxK_of_waiting hrun, ?_⟩⟩
  · obtain rfl := hnext (cycle_frozen keys rand hf)
    exact hf
  · obtain rfl := hnext (cycle_of_waiting_noKey rand hw hno)
    exact hw
  · obtain ⟨k, hk⟩ | hno := lowestKey_or_noKey (afterPhases keys rand s)
    · obtain rfl := hnext (cycle_of_waiting_lowestKey rand hw hk)
      exact ⟨rfl, hw.2⟩
    · exact absurd hno hkey
  · rintro ⟨hpc, hno, x, hdec⟩
    obtain rfl := exec_of_cycle hrun hpc hdec ht (exec_ldVxK_of_noKey hno x)
    exact ⟨rfl, hrun.2⟩

end Sys2Proof
end

section
/-! # Faults and diagnostic events (60_exceptions.md R230 to R236) -/

namespace Sys2Proof

open Sys2Proof.Machine Sys2Proof.Safety

/-! ### A running machine is neither frozen nor waiting (45_timers_input.md R211) -/

theorem not_frozen_of_running {s : State} (h : Running s) : ¬ Frozen s := fun hfrozen =>
  Bool.false_ne_true (h.2.symm.trans hfrozen)

theorem not_waiting_of_running {s : State} (h : Running s) : ¬ Waiting s := fun hwait =>
  Bool.false_ne_true (h.1.symm.trans hwait.1)

/-! ### The fault entry of a cycle (R230 to R232) -/

/-- Settles O48: a running machine freezes as the halt-control table says, and a waiting one goes on waiting or runs
again. -/
theorem faultsHappenExactlyInTheListedCases : Obligations.FaultsHappenExactlyInTheListedCases := by
  intro keys rand s hf
  obtain ⟨t, ht, -, hwaits, hwakes, hruns, -⟩ := haltControlFollowsItsTable keys rand s
  refine ⟨t, ht, ?_⟩
  cases hw : s.waiting with
  | false => exact hruns ⟨hw, hf⟩
  | true =>
    have hfaulted : t.faulted = false := by
      by_cases hno : NoKey keys
      · exact (hwaits ⟨hw, hf⟩ hno).2
      · exact (hwakes ⟨hw, hf⟩ hno).2
    exact iff_of_false (Bool.eq_false_iff.mp hfaulted) fun hcause =>
      not_waiting_of_running ⟨hcause.1, hf⟩ ⟨hw, hf⟩

/-- The code and the word that R231 gives the record of the fault a cycle from `s` meets. -/
def FaultCause (s : State) (code : FaultCode) (w : Word) : Prop :=
  if 0xFFE < s.pc.toNat then code = .fetchRange ∧ w = 0x0000#16
  else w = wordAtPc s ∧ ∃ i, decode (wordAtPc s) = .instr i ∧ Faults i s code

/-- The fault entry of an instruction takes the fetch increment back, and the word it records is the one fetched. -/
theorem raise_afterFetch {s : State} {i : Instr} (keys : BitVec 16) (rand : Byte) (code : FaultCode)
    (hdec : decode (wordAtPc s) = .instr i) :
    (afterFetch keys rand s).raise code i = (afterPhases keys rand s).enterFault code s.pc (wordAtPc s) := by
  have hpc : (afterFetch keys rand s).pc - 2#16 = s.pc := BitVec.add_sub_cancel s.pc 2#16
  rw [State.raise_eq, hpc, decode_eq_instr_iff.mp hdec]
  rfl

/-- Either fault entry of a cycle is made on the state after the phases, with PC where the cycle began. -/
theorem cycle_of_cycleFaults {s : State} (keys : BitVec 16) (rand : Byte) (hf : s.faulted = false)
    (h : CycleFaults s) :
    ∃ code w, FaultCause s code w ∧
      cycle keys rand s = .next ((afterPhases keys rand s).enterFault code s.pc w) := by
  have hrun : Running s := ⟨h.1, hf⟩
  obtain ⟨t, ht, hout⟩ := cycle_outcome keys rand s
  have hfrozen : Frozen t := (hout.frozen_iff hrun).mpr h
  cases hout with
  | frozenTick hs => exact absurd hs (not_frozen_of_running hrun)
  | wake hwait => exact absurd hwait (not_waiting_of_running hrun)
  | fetchFault _ hpc => exact ⟨_, _, (if_pos hpc).mpr ⟨rfl, rfl⟩, ht⟩
  | unknown => exact absurd hfrozen (not_frozen_of_running hrun)
  | raise _ hpc hdec hfault =>
    rw [raise_afterFetch keys rand _ hdec] at ht
    exact ⟨_, _, (if_neg (Nat.not_lt.mpr hpc)).mpr ⟨rfl, _, hdec, hfault⟩, ht⟩
  | complete _ _ _ _ hupd => exact absurd (hupd.faulted.symm.trans hfrozen) (not_frozen_of_running hrun)

/-- A fault entry that leaves PC where it stands changes only the record. -/
theorem Safety.ChangesOnly.enterFault {T : Part → Prop} {s t : State} (h : ChangesOnly T s t) (hf : T .fault)
    (code : FaultCode) (w : Word) : ChangesOnly T s (t.enterFault code t.pc w) := by
  intro p hp
  have ht := h p hp
  cases p with
  | fault => exact absurd hf hp
  | _ => exact ht

/-- Settles O49: the entry writes the record of its cause over the state after the phases, and nothing else. -/
theorem faultEntryIsPrecise : Obligations.FaultEntryIsPrecise := by
  refine ⟨⟨rfl, rfl, rfl, rfl, rfl, rfl⟩, fun keys rand s hf hfaults => ?_⟩
  obtain ⟨code, w, hcause, ht⟩ := cycle_of_cycleFaults keys rand hf hfaults
  have hphases : ChangesOnly (fun p => p = .fault ∨ phaseParts p) s (afterPhases keys rand s) :=
    ChangesOnly.refl.afterPhases keys rand fun _ => .inr
  exact ⟨_, ht, rfl, rfl, rfl, hcause, toNat_timer_pred s.dt, toNat_timer_pred s.st, rfl,
    hphases.enterFault (.inl rfl) code w⟩

/-! ### Diagnostic events (R236) -/

theorem not_diagValid {s : State} (h : s.diag = none) : ¬ s.diagValid = true := by
  simp [State.diagValid, h]

theorem Updated.diag {i : Instr} {s t : State} (h : Updated i s t) : t.diag = s.diag := by
  induction h with
  | refl | advance | push | popPc | setDt | setSt | startWait => rfl
  | setV _ ih | setVs _ ih | setI _ ih | setFb _ ih | setPc _ _ ih | writeBytes _ _ ih => exact ih

theorem wake_diag (s : State) : s.wake.diag = s.diag := by
  obtain ⟨k, hk⟩ | hno := lowestKey_or_noKey s
  · rw [wake_of_lowestKey hk]
    rfl
  · rw [wake_of_noKey hno]

theorem CycleOutcome.diagValid_iff {keys : BitVec 16} {rand : Byte} {s t : State} (h : CycleOutcome keys rand s t) :
    t.diagValid = true ↔
      Running s ∧ s.pc.toNat ≤ 0xFFE ∧ decode (wordAtPc s) = .unknown (wordAtPc s) := by
  cases h with
  | frozenTick hfrozen => exact iff_of_false nofun fun ⟨hrun, _⟩ => not_frozen_of_running hrun hfrozen
  | wake hwait =>
    exact iff_of_false (not_diagValid (wake_diag _)) fun ⟨hrun, _⟩ => not_waiting_of_running hrun hwait
  | fetchFault _ hpc => exact iff_of_false nofun fun ⟨_, hin, _⟩ => Nat.not_lt.mpr hin hpc
  | unknown hrun hpc hdec => exact iff_of_true rfl ⟨hrun, hpc, hdec⟩
  | raise _ _ hdec => exact iff_of_false nofun fun ⟨_, _, hunk⟩ => nomatch hdec.symm.trans hunk
  | complete _ _ hdec _ hupd =>
    exact iff_of_false (not_diagValid hupd.diag) fun ⟨_, _, hunk⟩ => nomatch hdec.symm.trans hunk

/-- Settles O15: of the outcomes of a cycle only that of an unknown word leaves a diagnostic event; the phases end the
one before. -/
theorem onlyUnknownWordsEmitDiagnostics : Obligations.OnlyUnknownWordsEmitDiagnostics := fun keys rand s =>
  have ⟨t, ht, hout⟩ := cycle_outcome keys rand s
  ⟨t, ht, hout.diagValid_iff⟩

end Sys2Proof
end

section
/-! # Reset, program load, the length of a wait and the end of a run (70_reset_and_hazards.md R251 to R260) -/

namespace Sys2Proof

open Sys2Proof.Machine Sys2Proof.Safety

/-! ### Reset and the frozen machine (R251) -/

/-- Beside the reset state of the machine's parameters, `rst` keeps the environment's inputs and their count. -/
theorem rst_changesOnly (s : State) (strap : Bool) :
    ChangesOnly (fun p => p = .inputs ∨ p = .tick) (State.resetWith { s.cfg with legacyMode := strap })
      (s.rst strap) := by
  intro p hp
  cases p with
  | inputs => exact absurd (.inl rfl) hp
  | tick => exact absurd (.inr rfl) hp
  | fault => exact ⟨rfl, rfl, rfl, rfl⟩
  | _ => rfl

/-- Settles O11: `rst` is the reset state but for the inputs, and the one update of a frozen tick is the end of the
diagnostic event. -/
theorem resetIsTheOnlyWayOutOfAFault : Obligations.ResetIsTheOnlyWayOutOfAFault :=
  ⟨rst_changesOnly, fun _ keys rand hf => ⟨_, cycle_frozen keys rand hf, hf⟩, fun _ hf =>
    ⟨_, step_frozen hf, hf, rfl, ChangesOnly.refl.setDiag rfl⟩⟩

/-! ### Program load (R253, R254) -/

theorem loadPort_ofNat (s : State) {a : Nat} (ha : a ≤ topAddr) (x : Byte) :
    s.loadPort (BitVec.ofNat 12 a) x = s.writeByte a x :=
  congrArg (s.writeByte · x) (Nat.mod_eq_of_lt (Nat.lt_succ_of_le ha))

theorem writeBytes_cons (s : State) (n a : Nat) (x : Byte) (xs : List Byte) :
    s.writeBytes n a (x :: xs) = (s.writeByte a x).writeBytes n (a + n) xs := rfl

/-- A block inside the memory is stored by the load port's writes, one byte after the other. -/
theorem writeBytes_eq_foldl_loadPort (xs : List Byte) {a : Nat} (h : a + xs.length ≤ topAddr + 1) (s : State) :
    s.writeBytes 1 a xs = (xs.zipIdx a).foldl (fun u p => u.loadPort (BitVec.ofNat 12 p.2) p.1) s := by
  induction xs generalizing a s with
  | nil => rfl
  | cons x xs ih =>
    rw [List.length_cons] at h
    rw [writeBytes_cons, List.zipIdx_cons, List.foldl_cons, loadPort_ofNat s (by omega), ih (by omega)]

theorem load_eq_some {s : State} {img : List Byte} (h : img.length ≤ 0xE00) :
    s.load img = some (s.writeBytes 1 0x200 img) := if_pos h

/-- Settles O10: the load is a block write at 0x200, and an image of 0xE00 bytes ends at the last address. -/
theorem programLoadCopiesOrRefuses : Obligations.ProgramLoadCopiesOrRefuses := by
  refine fun s img hok => ⟨fun hlen => ?_, fun hlong => if_neg (Nat.not_le.mpr hlong)⟩
  have hload := load_eq_some (s := s) hlen
  have hin : ∀ k, k < img.length → 0x200 + 1 * k ≤ topAddr := fun k hk => by
    unfold topAddr
    omega
  refine ⟨_, hload, fun k hk => ?_, ?_, ?_, s.wf_load _ img hok hload⟩
  · simpa only [Nat.one_mul] using readByte_writeBytes Nat.one_pos hok hin hk
  · exact writeBytes_eq_foldl_loadPort img (by unfold topAddr; omega) s
  · exact ChangesOnly.refl.writeBytes Nat.one_pos hok hin fun k hk => ⟨k, hk, by rw [Nat.one_mul]⟩

/-! ### Every tick completes (R259) -/

/-- Settles O50: the frozen tick, the wake-up, the fault entry of a fetch and every instruction answer a next state. -/
theorem everyTickAnswersANextState : Obligations.EveryTickAnswersANextState := fun s =>
  (step_cfg s).imp fun _ h => h.1

/-! ### The length of a wait (R258) -/

theorem run_succ_of_step {k : Nat} {s t : State} (h : step s = .next t) : core.run (k + 1) s = core.run k t := by
  have hstep : core.step s = .next t := h
  simp only [Host.Core.run, hstep]

/-- The last step of a run is one step from where the others lead. -/
theorem run_succ_of_run {k : Nat} {s t : State} (h : core.run k s = .next t) : core.run (k + 1) s = step t := by
  induction k generalizing s with
  | zero =>
    obtain rfl : s = t := Host.Outcome.next.inj h
    obtain ⟨u, hu⟩ := everyTickAnswersANextState s
    exact (run_succ_of_step hu).trans hu.symm
  | succ k ih =>
    obtain ⟨u, hu⟩ := everyTickAnswersANextState s
    rw [run_succ_of_step hu] at h ⊢
    exact ih h

theorem nextInput_of_cons {s : State} {c : CycleInput} {rest : List CycleInput} (h : s.inputs = c :: rest) :
    s.nextInput = c := by
  simp only [State.nextInput, h]

section
variable {s : State} {c : CycleInput} {rest : List CycleInput} (hw : Waiting s) (hin : s.inputs = c :: rest)
include hw hin

theorem step_of_waiting_noKey (hno : NoKey c.keys) : step s = .next (afterPhases c.keys c.rand s.takeInput) := by
  rw [step_cycle hw.2, nextInput_of_cons hin]
  exact cycle_of_waiting_noKey c.rand hw hno

theorem step_of_waiting_lowestKey {j : Reg} (hj : LowestKey c.keys j) :
    step s = .next ((afterPhases c.keys c.rand s.takeInput).setV s.waitX (byteOfReg j)).endWait := by
  rw [step_cycle hw.2, nextInput_of_cons hin]
  exact cycle_of_waiting_lowestKey c.rand hw hj

end

/-- From the waiting machine `s`, `k` snapshots without a key lead to `t`, with the inputs `rest` still to come. -/
structure WaitedOn (k : Nat) (rest : List CycleInput) (s t : State) : Prop where
  waiting : Waiting t
  pc : t.pc = s.pc
  waitX : t.waitX = s.waitX
  inputs : t.inputs = rest
  dt : t.dt.toNat = s.dt.toNat - k
  st : t.st.toNat = s.st.toNat - k

theorem toNat_timer_pred_sub (b : Byte) (k : Nat) :
    (BitVec.ofNat 8 (b.toNat - 1)).toNat - k = b.toNat - (k + 1) := by
  rw [toNat_timer_pred]
  omega

/-- Each snapshot without a key costs one step of the wait. -/
theorem run_of_waiting_noKeys {s : State} {cs rest : List CycleInput} (hw : Waiting s) (hin : s.inputs = cs ++ rest)
    (hno : ∀ c ∈ cs, NoKey c.keys) : ∃ t, core.run cs.length s = .next t ∧ WaitedOn cs.length rest s t := by
  induction cs generalizing s with
  | nil => exact ⟨s, rfl, ⟨hw, rfl, rfl, hin, rfl, rfl⟩⟩
  | cons c cs ih =>
    obtain ⟨hc, hcs⟩ := List.forall_mem_cons.mp hno
    have hin' : s.takeInput.inputs = cs ++ rest := congrArg List.tail hin
    obtain ⟨t, ht, hwait⟩ := ih (s := afterPhases c.keys c.rand s.takeInput) hw hin' hcs
    exact ⟨t, (run_succ_of_step (step_of_waiting_noKey hw hin hc)).trans ht,
      { hwait with
        dt := hwait.dt.trans (toNat_timer_pred_sub s.dt cs.length)
        st := hwait.st.trans (toNat_timer_pred_sub s.st cs.length) }⟩

/-- Settles O47: the steps before the key's keep the machine waiting, and the one that sees the key is the wake-up. -/
theorem waitLastsUntilAKey : Obligations.WaitLastsUntilAKey := by
  rintro _ s cs rest hw hin rfl hno
  obtain ⟨t, ht, hwait⟩ := run_of_waiting_noKeys hw hin hno
  refine ⟨⟨t, ht, hwait.waiting, hwait.pc, hwait.waitX, hwait.inputs, hwait.dt, hwait.st⟩, ?_⟩
  rintro c later j rfl hj
  refine ⟨_, (run_succ_of_run ht).trans (step_of_waiting_lowestKey hwait.waiting hwait.inputs hj),
    ⟨rfl, hwait.waiting.2⟩, ?_, hwait.pc, congrArg List.tail hwait.inputs, ?_, ?_⟩
  · rw [← hwait.waitX]
    exact (congrArg BitVec.toNat (getV_setV_self _ _ _)).trans (toNat_byteOfReg j)
  · exact (toNat_timer_pred t.dt).trans (congrArg (· - 1) hwait.dt)
  · exact (toNat_timer_pred t.st).trans (congrArg (· - 1) hwait.st)

/-! ### The end of a run (R260) -/

/-- A PC inside the memory is a jump's target. -/
theorem zext16_ofNat_pc {a : Word} (h : a.toNat ≤ 0xFFE) : zext16 (BitVec.ofNat 12 a.toNat) = a := by
  apply BitVec.eq_of_toNat_eq
  rw [toNat_zext16]
  exact Nat.mod_eq_of_lt (by omega)

/-- A self-jump takes the fetch increment back, so that the phases are all the cycle does. -/
theorem cycle_of_finished {s : State} (keys : BitVec 16) (rand : Byte) (h : Finished s) :
    cycle keys rand s = .next (afterPhases keys rand s) := by
  obtain ⟨hpc, hdec, hrun⟩ := h
  calc cycle keys rand s
    _ = exec (.jp (BitVec.ofNat 12 s.pc.toNat)) (afterFetch keys rand s) :=
      cycleExecutesTheInstructionAtPc keys rand s _ hrun hpc hdec
    _ = .next (afterPhases keys rand s) :=
      congrArg (fun a => Host.Outcome.next ((afterFetch keys rand s).setPc a)) (zext16_ofNat_pc hpc)

/-- Settles O58: the phases touch neither PC nor the memory it is fetched from, so that the self-jump stands. -/
theorem finishedRunOnlyCountsDown : Obligations.FinishedRunOnlyCountsDown := fun keys rand s hs =>
  ⟨_, cycle_of_finished keys rand hs, hs, ChangesOnly.refl.afterPhases keys rand fun _ => id,
    toNat_timer_pred s.dt, toNat_timer_pred s.st, rfl⟩

end Sys2Proof
end
